-- ==== Sys2Proof/Word.lean ====
section
/-! DEFINITION. The words of the block: the 8-bit byte and the 16-bit word (00_scope.md R6, R7), and the closed
enumerations the encodings and the classifier are made of (40_classifier.md R72, 10_state.md R22, 30_encoding.md R58).
Bit 0 is the least significant bit everywhere (R7, D23). -/

namespace Sys2Proof

/-- A byte: "an unsigned integer 0..255", bit 7 its high bit (R7). -/
abbrev Byte := BitVec 8

/-- A 16-bit word: the DAC word (R50) and the `value` operand of ENCODE (VALUE_W = 16, D19, log 10). -/
abbrev Word := BitVec 16

/-- The ten commands of R72, "a closed enumeration of recognized commands". -/
inductive Command where
  | noteOff
  | noteOn
  | polyPressure
  | controlChange
  | programChange
  | channelPressure
  | pitchBend
  | sysExStart
  | sysExEnd
  | other
deriving DecidableEq, Repr

/-- The DAC's channel selector (R58): the source leaves the two names open, the spec calls them 0 and 1. -/
inductive ChannelSelect where
  | selector0
  | selector1
deriving DecidableEq, Repr

/-- The DAC's bufferEnable setting (R22, R58). -/
inductive BufferEnable where
  | off
  | on
deriving DecidableEq, Repr

/-- The DAC's gain setting, 2x or 1x (R22, R58). -/
inductive Gain where
  | x2
  | x1
deriving DecidableEq, Repr

/-- The DAC's shutdown setting (R22, R58). -/
inductive Shutdown where
  | shutdown
  | active
deriving DecidableEq, Repr

/-- The DAC configuration record of R22, an operand of ENCODE and no state of the block. -/
structure DacConfig where
  channel : ChannelSelect
  buffer : BufferEnable
  gain : Gain
  shutdown : Shutdown
deriving DecidableEq, Repr

end Sys2Proof
end

