-- ==== Sys2Proof/Config.lean ====
section
/-! DEFINITION. What the spec leaves open (00_scope.md R6, 92_eei_decisions.md): the capacity of the SysEx buffer, the
identities of the registered consumers, the form of a filter, and the free bytes RESET leaves in the message slot. -/

namespace Sys2Proof

/-- The identity of a registered consumer (R19, D10). DESIGN CHOICE (log 2): a number, which the block never inspects. -/
structure Handler where
  id : Nat
deriving DecidableEq, Repr

/-- A registered status filter in the form R18 gives for hardware: bit `b[6:0]` is the answer for the status byte `b`
(log 3). -/
abbrev StatusMask := BitVec 128

/-- SYSEX_CAPACITY less one, OPEN (D8): opaque, so no proof can use its value. -/
opaque Config.sysexCapacityLessOne : Nat

/-- SYSEX_CAPACITY of the block that `State.reset` describes: any C with C >= 1 (R6, D8). DESIGN CHOICE (log 1). -/
def Config.sysexCapacity : Nat := Config.sysexCapacityLessOne + 1

/-- The free bytes: what RESET leaves in MSG.status, MSG.data1 and MSG.data2 is "unspecified (any value)" (R190).
DESIGN CHOICE (log 5). -/
opaque Config.freeByte : Nat → Byte

end Sys2Proof
end

