-- ==== Sys2Proof/Syntax.lean ====
section
/-! DEFINITION. The syntax: one constructor per row of spec/opcode_table.json. Fifteen rows are the bit patterns of the
eleven byte classes of FEED's operand (30_encoding.md R52, 40_classifier.md R76-R86); the sixteenth is the DAC word of
ENCODE (30_encoding.md R50, 43_dac_codec.md R131). The operations that have no encoding (R54) are `Machine.Operation`. -/

namespace Sys2Proof

/-- The rows of the opcode table. -/
inductive Instr where
  /-- DATA, `0ddddddd` (R76). -/
  | data (payload : BitVec 7)
  /-- NOTE_OFF, `1000nnnn` (R77). -/
  | noteOff (channel : BitVec 4)
  /-- NOTE_ON, `1001nnnn` (R78). -/
  | noteOn (channel : BitVec 4)
  /-- POLY_PRESSURE, `1010nnnn` (R79). -/
  | polyPressure (channel : BitVec 4)
  /-- CONTROL_CHANGE, `1011nnnn` (R80). -/
  | controlChange (channel : BitVec 4)
  /-- PROGRAM_CHANGE, `1100nnnn` (R81). -/
  | programChange (channel : BitVec 4)
  /-- CHANNEL_PRESSURE, `1101nnnn` (R82). -/
  | channelPressure (channel : BitVec 4)
  /-- PITCH_BEND, `1110nnnn` (R83). -/
  | pitchBend (channel : BitVec 4)
  /-- SYSEX_START, `11110000` (R84). -/
  | sysexStart
  /-- SYSEX_END, `11110111` (R85). -/
  | sysexEnd
  /-- OTHER_F1, `11110001` (R86). -/
  | otherF1
  /-- OTHER_F2_F3, `1111001s` (R86). -/
  | otherF2F3 (sub : BitVec 1)
  /-- OTHER_F4_F5, `1111010s` (R86). -/
  | otherF4F5 (sub : BitVec 1)
  /-- OTHER_F6, `11110110` (R86). -/
  | otherF6
  /-- OTHER_F8_FF, `11111sss` (R86). -/
  | otherF8FF (sub : BitVec 3)
  /-- DAC_WORD, `cbgsvvvvvvvvvvvv`: ENCODE of these operands (R131). `value` has VALUE_W = 16 bits; the word holds its
  low 12. -/
  | dacWord (channel : ChannelSelect) (buf : BufferEnable) (gain : Gain) (shdn : Shutdown) (value : Word)
deriving DecidableEq, Repr

end Sys2Proof
end

