-- ==== Sys2Proof/Decode.lean ====
section
/-! DEFINITION. Decoding and encoding (30_encoding.md). One byte is an input byte of FEED (R46, R47, R52); two bytes,
the more significant first ("MSB-first on the wire", R50, R134), are a DAC word; any other number of bytes is refused by
name. Which of the two ports a transaction came through decides its length (R54, log 8). -/

namespace Sys2Proof

/-- Why bytes are no encoded operand. No single byte is ever refused ("no input is invalid", R55). -/
inductive DecodeError where
  /-- No byte at all. -/
  | noByte
  /-- More than the two bytes of a DAC word. -/
  | tooLong (count : Nat)
deriving DecidableEq, Repr

/-! ### The fields of a byte (R46, R47, R51) -/

/-- `PAYLOAD = b[6:0]` of a data byte (R47). -/
def payloadOf (b : Byte) : BitVec 7 := b.extractLsb' 0 7

/-- `CMD3 = b[6:4]` of a status byte (R46). -/
def cmd3Of (b : Byte) : BitVec 3 := b.extractLsb' 4 3

/-- `LOW = b[3:0]` of a status byte (R46). -/
def lowOf (b : Byte) : BitVec 4 := b.extractLsb' 0 4

/-! ### The one-bit codes of the DAC word's enumerations (R58, D20, log 20) -/

def channelCode : ChannelSelect → BitVec 1
  | .selector0 => 0#1
  | .selector1 => 1#1

def bufferCode : BufferEnable → BitVec 1
  | .off => 0#1
  | .on => 1#1

def gainCode : Gain → BitVec 1
  | .x2 => 0#1
  | .x1 => 1#1

def shutdownCode : Shutdown → BitVec 1
  | .shutdown => 0#1
  | .active => 1#1

/-- Format W (R50): CH in bit 15, BUF in 14, GAIN in 13, SHDN in 12, VALUE in 11..0. -/
def packWord (ch buf gain shdn : BitVec 1) (value : BitVec 12) : Word := ch ++ (buf ++ (gain ++ (shdn ++ value)))

/-- The two bytes of a 16-bit word in wire order, MSB first: `word[15:8]`, then `word[7:0]` (R134). -/
def wireBytes (w : Word) : List Byte := [w.extractLsb' 8 8, w.extractLsb' 0 8]

/-! ### Decoding -/

/-- The system bytes, 0xF0-0xFF (R52 rows SYSEX_START, SYSEX_END, OTHER; R84-R86). -/
def decodeSystem (b : Byte) : Instr :=
  if b = 0xF0#8 then .sysexStart
  else if b = 0xF1#8 then .otherF1
  else if b.extractLsb' 1 7 = 0b1111001#7 then .otherF2F3 (b.extractLsb' 0 1)
  else if b.extractLsb' 1 7 = 0b1111010#7 then .otherF4F5 (b.extractLsb' 0 1)
  else if b = 0xF6#8 then .otherF6
  else if b = 0xF7#8 then .sysexEnd
  else .otherF8FF (b.extractLsb' 0 3)

/-- The class of an input byte, a function of the byte alone (R52, R53). The codes of the seven channel commands are
the standard ones (PRESUMED, log 18). -/
def decodeByte (b : Byte) : Instr :=
  if b.getLsbD 7 = false then .data (payloadOf b)
  else if cmd3Of b = 0#3 then .noteOff (lowOf b)
  else if cmd3Of b = 1#3 then .noteOn (lowOf b)
  else if cmd3Of b = 2#3 then .polyPressure (lowOf b)
  else if cmd3Of b = 3#3 then .controlChange (lowOf b)
  else if cmd3Of b = 4#3 then .programChange (lowOf b)
  else if cmd3Of b = 5#3 then .channelPressure (lowOf b)
  else if cmd3Of b = 6#3 then .pitchBend (lowOf b)
  else decodeSystem b

/-- The operands of ENCODE that a DAC word stands for (R50, R58, R133: every word is one configuration and one value
below 4096). -/
def decodeWord (w : Word) : Instr :=
  .dacWord
    (if w.getLsbD 15 then .selector1 else .selector0)
    (if w.getLsbD 14 then .on else .off)
    (if w.getLsbD 13 then .x1 else .x2)
    (if w.getLsbD 12 then .active else .shutdown)
    ((w.extractLsb' 0 12).setWidth 16)

/-- The decoder, total on any bytes. -/
def decode : List Byte → Except DecodeError Instr
  | [] => .error .noByte
  | [b] => .ok (decodeByte b)
  | [hi, lo] => .ok (decodeWord (hi ++ lo))
  | _ :: _ :: _ :: rest => .error (.tooLong (rest.length + 3))

/-! ### Encoding -/

/-- The encoded bytes of an instruction, from the patterns of R52 and the format of R50. -/
def encode : Instr → List Byte
  | .data payload => [0b0#1 ++ payload]
  | .noteOff channel => [0b1000#4 ++ channel]
  | .noteOn channel => [0b1001#4 ++ channel]
  | .polyPressure channel => [0b1010#4 ++ channel]
  | .controlChange channel => [0b1011#4 ++ channel]
  | .programChange channel => [0b1100#4 ++ channel]
  | .channelPressure channel => [0b1101#4 ++ channel]
  | .pitchBend channel => [0b1110#4 ++ channel]
  | .sysexStart => [0b11110000#8]
  | .sysexEnd => [0b11110111#8]
  | .otherF1 => [0b11110001#8]
  | .otherF2F3 sub => [0b1111001#7 ++ sub]
  | .otherF4F5 sub => [0b1111010#7 ++ sub]
  | .otherF6 => [0b11110110#8]
  | .otherF8FF sub => [0b11111#5 ++ sub]
  | .dacWord channel buf gain shdn value =>
    wireBytes (packWord (channelCode channel) (bufferCode buf) (gainCode gain) (shutdownCode shdn)
      (value.extractLsb' 0 12))

/-! ### The opcode table of the byte classes -/

/-- A row of the opcode table for an 8-bit operand: a byte is of the row when `byte AND mask = pattern`. -/
structure ByteRow where
  mnemonic : String
  pattern : Byte
  mask : Byte
deriving DecidableEq, Repr

def ByteRow.covers (r : ByteRow) (b : Byte) : Bool := (b &&& r.mask) == r.pattern

/-- The fifteen 8-bit rows of spec/opcode_table.json (R52). -/
def byteRows : List ByteRow :=
  [⟨"DATA", 0x00#8, 0x80#8⟩, ⟨"NOTE_OFF", 0x80#8, 0xF0#8⟩, ⟨"NOTE_ON", 0x90#8, 0xF0#8⟩,
   ⟨"POLY_PRESSURE", 0xA0#8, 0xF0#8⟩, ⟨"CONTROL_CHANGE", 0xB0#8, 0xF0#8⟩, ⟨"PROGRAM_CHANGE", 0xC0#8, 0xF0#8⟩,
   ⟨"CHANNEL_PRESSURE", 0xD0#8, 0xF0#8⟩, ⟨"PITCH_BEND", 0xE0#8, 0xF0#8⟩, ⟨"SYSEX_START", 0xF0#8, 0xFF#8⟩,
   ⟨"SYSEX_END", 0xF7#8, 0xFF#8⟩, ⟨"OTHER_F1", 0xF1#8, 0xFF#8⟩, ⟨"OTHER_F2_F3", 0xF2#8, 0xFE#8⟩,
   ⟨"OTHER_F4_F5", 0xF4#8, 0xFE#8⟩, ⟨"OTHER_F6", 0xF6#8, 0xFF#8⟩, ⟨"OTHER_F8_FF", 0xF8#8, 0xF8#8⟩]

/-- The table's name of an instruction's row. -/
def Instr.mnemonic : Instr → String
  | .data _ => "DATA"
  | .noteOff _ => "NOTE_OFF"
  | .noteOn _ => "NOTE_ON"
  | .polyPressure _ => "POLY_PRESSURE"
  | .controlChange _ => "CONTROL_CHANGE"
  | .programChange _ => "PROGRAM_CHANGE"
  | .channelPressure _ => "CHANNEL_PRESSURE"
  | .pitchBend _ => "PITCH_BEND"
  | .sysexStart => "SYSEX_START"
  | .sysexEnd => "SYSEX_END"
  | .otherF1 => "OTHER_F1"
  | .otherF2F3 _ => "OTHER_F2_F3"
  | .otherF4F5 _ => "OTHER_F4_F5"
  | .otherF6 => "OTHER_F6"
  | .otherF8FF _ => "OTHER_F8_FF"
  | .dacWord _ _ _ _ _ => "DAC_WORD"

/-! ### The table's numbering of bits -/

/-- The `count` low bytes of `w`, the most significant first: how an operand of that many bytes is laid out. -/
def bytesMsbFirst : Nat → Nat → List Byte
  | 0, _ => []
  | count + 1, w => BitVec.ofNat 8 (w / 256 ^ count) :: bytesMsbFirst count w

/-- The instruction the decoder reads from a table word: `nbits` (8 or 16, in whole bytes) bits of `w`. -/
def decodeTableWord (nbits w : Nat) : Option Instr :=
  match decode (bytesMsbFirst ((nbits + 7) / 8) w) with
  | .ok i => some i
  | .error _ => none

end Sys2Proof
end

