-- ==== Sys2Proof/Machine/State.lean ====
section
/-! DEFINITION. The state of one instance of the block as plain data (10_state.md R10-R26): every register of R10, the
output trace OUT of R23, the capacity of the instance (R6), and three fields of the model's own: the operations the
environment has still to issue, the answer of the last combinational function, and the counter of free bytes. -/

namespace Sys2Proof.Machine

/-- PSTATE, the state of the core parser: exactly three values (R13; the hardware code 3 is no state, D14). -/
inductive PState where
  | status
  | data1
  | data2
deriving DecidableEq, Repr

/-- XSTATE, the state of the SysEx accumulator: exactly two values (R15). -/
inductive XState where
  | idle
  | accumulating
deriving DecidableEq, Repr

/-- MSG, the single static message slot (R11, R14). -/
structure Msg where
  status : Byte
  data1 : Byte
  data2 : Byte
deriving DecidableEq, Repr

/-- XBUF as (index, byte) pairs, indices rising: the block's only memory (R30). An index that is not listed holds no
byte (log 11). -/
abbrev Memory := List Host.Cell

/-- The events of R23. An event carries copies of the values (D17, log 24). -/
inductive Event where
  /-- `MsgReady(h, status, data1, data2)`. -/
  | msgReady (h : Handler) (status data1 data2 : Byte)
  /-- `SysExReady(h, bytes)`; the delivered length is `bytes.length`. -/
  | sysExReady (h : Handler) (bytes : List Byte)
deriving DecidableEq, Repr

/-- What a combinational function answers (R70, R130). -/
inductive Answer where
  | bit (value : Bool)
  | command (c : Command)
  | channel (n : BitVec 4)
  | word (w : Word)
deriving DecidableEq, Repr

/-- The operations of R140, each its own port (R54). `codecWord` is ENCODE with its operands packed as a DAC word, the
encoded form of opcode-table row DAC_WORD (log 8). -/
inductive Operation where
  | reset
  | feed (b : Byte)
  | setFilter (p : StatusMask)
  | setMsgCb (h : Handler)
  | setSysexCb (h : Handler)
  | isStatus (b : Byte)
  | isData (b : Byte)
  | commandOf (b : Byte)
  | channelOf (b : Byte)
  | isCommand (b : Byte) (c : Command)
  | encode (cfg : DacConfig) (value : Word)
  | codecWord (w : Word)
deriving DecidableEq, Repr

/-- One thing the environment does (log 7): issue one operation, or begin a second before the first has completed
(R175, R196). -/
inductive Request where
  | one (o : Operation)
  | overlapping (first second : Operation)
deriving DecidableEq, Repr

/-- Why the machine stops. The block itself "has no exception, no trap, no fault and no error output" (R170). -/
inductive Fault where
  /-- Raised by `writeXbuf` for an index outside 0..C-1, an address of XBUF that does not exist (R30). Safe: the block
  does nothing of the kind (R34), and no state that meets `State.Inv` raises it. -/
  | xbufIndex (index : Nat)
deriving DecidableEq, Repr

/-- Why an operation has no meaning. -/
inductive Refusal where
  /-- Raised by `exec` for an instruction without a meaning; no arm raises it now. Safe. -/
  | notModelled (mnemonic : String)
  /-- Raised by `serve` for a state-touching operation begun while another is in progress: "a model gives such a nested
  operation no meaning (it refuses it)" (R175, R196, D22). Safe. -/
  | reentrant
  /-- Raised by `runBytes` for bytes that are no encoded operand. Safe; neither FEED nor a DAC word raises it (R55). -/
  | undecodable (e : DecodeError)
deriving DecidableEq, Repr

/-- The state of one instance of the block. -/
structure State where
  /-- C, the fixed capacity of XBUF in bytes (R6, R16): a parameter of the instance, which no operation writes. -/
  capacity : Nat
  /-- PSTATE (R13). -/
  pstate : PState
  /-- MSG (R14). -/
  msg : Msg
  /-- XSTATE (R15). -/
  xstate : XState
  /-- XBUF (R16). -/
  xbuf : Memory
  /-- FILT (R18). -/
  filt : Option StatusMask
  /-- MSG_CB (R19). -/
  msgCb : Option Handler
  /-- SX_CB (R20). -/
  sxCb : Option Handler
  /-- OUT, the events emitted since reset, oldest first (R23). -/
  out : List Event
  /-- The model's own: what the last combinational function answered (log 9). -/
  answer : Option Answer
  /-- The model's own: the requests the environment has still to make, oldest first (log 7). -/
  stim : List Request
  /-- The model's own: how many free bytes have been drawn (log 5). -/
  freeCtr : Nat
deriving DecidableEq, Repr

/-- What an operation does: the three outcomes of a step. -/
abbrev Result := Host.Outcome State Fault Refusal

/-- The machine right after reset (R10, R190). The capacity is the open parameter (log 1). MSG is "unspecified" in the
spec and 0x00 here (DESIGN CHOICE, log 4). -/
def State.reset : State :=
  { capacity := Config.sysexCapacity
    pstate := .status
    msg := ⟨0x00#8, 0x00#8, 0x00#8⟩
    xstate := .idle
    xbuf := []
    filt := none
    msgCb := none
    sxCb := none
    out := []
    answer := none
    stim := []
    freeCtr := 0 }

/-! ### The updates every operation is made of; Laws/State.lean has one lemma per field of each. -/

def State.setPState (s : State) (p : PState) : State := { s with pstate := p }
def State.setMsg (s : State) (m : Msg) : State := { s with msg := m }
def State.setXState (s : State) (x : XState) : State := { s with xstate := x }
def State.setXbuf (s : State) (m : Memory) : State := { s with xbuf := m }
def State.setFilt (s : State) (f : Option StatusMask) : State := { s with filt := f }
def State.setMsgCb (s : State) (h : Option Handler) : State := { s with msgCb := h }
def State.setSxCb (s : State) (h : Option Handler) : State := { s with sxCb := h }
def State.setOut (s : State) (es : List Event) : State := { s with out := es }
def State.setAnswer (s : State) (a : Option Answer) : State := { s with answer := a }
def State.setStim (s : State) (rs : List Request) : State := { s with stim := rs }
def State.setFreeCtr (s : State) (n : Nat) : State := { s with freeCtr := n }

end Sys2Proof.Machine
end

