-- ==== Sys2Proof/Machine/Operands.lean ====
section
/-! DEFINITION. How operands are assembled (30_encoding.md R51): the byte a row's fields stand for, and the mask a
filter predicate stands for. -/

namespace Sys2Proof.Machine

/-- A data byte, `0ddddddd` (R47). -/
def dataByte (payload : BitVec 7) : Byte := 0b0#1 ++ payload

/-- A status byte: bit 7 set, the command field in bits 6..4, the low nibble in bits 3..0 (R46). -/
def statusByte (cmd3 : BitVec 3) (low : BitVec 4) : Byte := 0b1#1 ++ (cmd3 ++ low)

/-- A system byte, upper nibble 0xF (R46: `CMD3 = 7`). -/
def systemByte (sub : BitVec 4) : Byte := statusByte 0b111#3 sub

/-- The mask of a predicate on bytes: bit i is its answer for the status byte 0x80 + i (R18, log 3). -/
def maskOf (p : Byte → Bool) : StatusMask := BitVec.ofFnLE fun i : Fin 128 => p (BitVec.ofNat 8 (128 + i.val))

/-- `FILT(b)` for `FILT = some mask`: bit `b[6:0]` of the mask (R18). -/
def maskAccepts (mask : StatusMask) (b : Byte) : Bool := mask.getLsbD (b.extractLsb' 0 7).toNat

end Sys2Proof.Machine
end

