-- ==== Sys2Proof/Machine/Flags.lean ====
section
/-! DEFINITION. The block has no status flags, condition codes or error bits (10_state.md R21). What stands here is the
one-bit conditions its transition tables test: the status/data split, the filter's verdict and the full buffer. -/

namespace Sys2Proof.Machine

/-- `IS_STATUS(b) = (b[7] == 1)` (R71). -/
def isStatus (b : Byte) : Bool := b.getLsbD 7

/-- `IS_DATA(b) = (b[7] == 0)` (R87). -/
def isData (b : Byte) : Bool := !b.getLsbD 7

/-- The filter accepts the status byte `b`: none is registered, or the registered one answers true (R92, R93, R99). -/
def filterAccepts (filt : Option StatusMask) (b : Byte) : Bool :=
  match filt with
  | none => true
  | some mask => maskAccepts mask b

/-- `|XBUF| == C` (R113). -/
def bufferFull (s : State) : Bool := s.xbuf.length == s.capacity

end Sys2Proof.Machine
end

