-- ==== Sys2Proof/Machine/Ops.lean ====
section
/-! DEFINITION. The named operations over the state: XBUF as memory (20_memory.md R30-R34, 00_scope.md R8), the
emission and delivery of events (60_exceptions.md R174, which stands here in place of taking an exception: the block
has none, R170), the answer of a combinational function, and the sequencing of results. -/

namespace Sys2Proof.Machine

/-- Do `f` in the state that `r` leaves; a fault or a refusal ends it. -/
def andThen (r : Result) (f : State → Result) : Result :=
  match r with
  | .next s => f s
  | .fault e => .fault e
  | .refused e => .refused e

/-- The state a result leaves, if it leaves one. -/
def nextOf (r : Result) : Option State :=
  match r with
  | .next s => some s
  | .fault _ => none
  | .refused _ => none

/-! ### Memory -/

/-- The canonical form of a memory: addresses strictly rising. (An unlisted address reads as no byte, so no entry can
equal what it reads as.) -/
def Memory.wf (m : Memory) : Bool := decide (m.Pairwise fun x y => x.1 < y.1)

/-- XBUF as a sequence occupies the indices 0, 1, .. without a gap (R16, R32). -/
def Memory.contiguous (m : Memory) : Bool := decide (m.map Prod.fst = List.range m.length)

/-- `MemRead(a, 1)`: the byte at index `a`, or none where no byte is held (R8, log 11). -/
def Memory.read : Memory → Nat → Option Byte
  | [], _ => none
  | (k, v) :: rest, a => if a = k then some v else Memory.read rest a

/-- `MemWrite(a, 1, b)` on the memory alone, keeping the addresses rising (R8). -/
def Memory.write : Memory → Nat → Byte → Memory
  | [], a, b => [(a, b)]
  | (k, v) :: rest, a, b =>
    if a < k then (a, b) :: (k, v) :: rest
    else if a = k then (a, b) :: rest
    else (k, v) :: Memory.write rest a b

/-- The bytes of a memory, lowest index first: what a delivery hands over (R32). -/
def Memory.bytes (m : Memory) : List Byte := m.map Prod.snd

/-- `XLEN = |XBUF|` (R17). -/
def State.xlen (s : State) : Nat := s.xbuf.length

/-- `MemWrite(index, 1, b)` on XBUF: its index space is 0..C-1 (R30); another index does not exist and faults. -/
def writeXbuf (index : Nat) (b : Byte) (s : State) : Result :=
  if index < s.capacity then .next (s.setXbuf (s.xbuf.write index b))
  else .fault (.xbufIndex index)

/-- `XBUF <- []` (R8, R34 a). -/
def clearXbuf (s : State) : State := s.setXbuf []

/-! ### Events -/

/-- `emit E`: append the event to OUT (R8, R23). -/
def emit (e : Event) (s : State) : State := s.setOut (s.out ++ [e])

/-- Deliver the completed message: emit `MsgReady` to the consumer in MSG_CB, or drop it when there is none
(R97, R100). -/
def deliverMsg (s : State) : State :=
  match s.msgCb with
  | none => s
  | some h => emit (.msgReady h s.msg.status s.msg.data1 s.msg.data2) s

/-- Deliver the buffer: emit `SysExReady` with a copy of XBUF to the consumer in SX_CB, or nothing when there is none
(R113, R114, R118). -/
def deliverSysex (s : State) : State :=
  match s.sxCb with
  | none => s
  | some h => emit (.sysExReady h s.xbuf.bytes) s

/-! ### Combinational answers and free bytes -/

/-- A combinational function puts its result on its output and touches no register (R70, R130; log 9). -/
def reply (a : Answer) (s : State) : Result := .next (s.setAnswer (some a))

/-- Leave the three bytes of MSG unspecified: three fresh free bytes (R190, log 5). -/
def scrambleMsg (s : State) : State :=
  (s.setMsg ⟨Config.freeByte s.freeCtr, Config.freeByte (s.freeCtr + 1), Config.freeByte (s.freeCtr + 2)⟩).setFreeCtr
    (s.freeCtr + 3)

end Sys2Proof.Machine
end

