-- ==== Sys2Proof/Machine/CoreParser.lean ====
section
/-! DEFINITION. The core MIDI parser, `core_step` of 41_core_parser.md R90: one step of the three-state machine STATUS,
DATA1, DATA2. It reads and writes PSTATE and MSG, reads FILT and MSG_CB, and nothing else. -/

namespace Sys2Proof.Machine

/-- `core_step(b)` (R90). STATUS: R91 (data byte ignored), R92 (rejected status byte ignored), R93 (accepted). DATA1:
R94 (abort, the byte is swallowed, R98), R95. DATA2: R96 (abort, swallowed), R97 (complete, delivered). The slot keeps its
bytes at an abort (D15, log 17). -/
def coreStep (b : Byte) (s : State) : State :=
  match s.pstate with
  | .status =>
    if isStatus b && filterAccepts s.filt b then (s.setMsg { s.msg with status := b }).setPState .data1 else s
  | .data1 =>
    if isData b then (s.setMsg { s.msg with data1 := b }).setPState .data2 else s.setPState .status
  | .data2 =>
    if isData b then deliverMsg ((s.setMsg { s.msg with data2 := b }).setPState .status) else s.setPState .status

end Sys2Proof.Machine
end

