-- ==== Sys2Proof/Machine/Classifier.lean ====
section
/-! DEFINITION. The byte classifier (40_classifier.md): combinational, total over all 256 bytes, no state (R70). Its two
one-bit functions IS_STATUS and IS_DATA are `isStatus` and `isData` of Machine/Flags.lean. -/

namespace Sys2Proof.Machine

/-- CMD_CODE, the standard codes of the seven channel commands (R6, D28; PRESUMED, log 18). The value 7 marks a system
message and names no channel command. -/
def cmdCode (cmd3 : BitVec 3) : Command :=
  if cmd3 = 0#3 then .noteOff
  else if cmd3 = 1#3 then .noteOn
  else if cmd3 = 2#3 then .polyPressure
  else if cmd3 = 3#3 then .controlChange
  else if cmd3 = 4#3 then .programChange
  else if cmd3 = 5#3 then .channelPressure
  else if cmd3 = 6#3 then .pitchBend
  else .other

/-- COMMAND_OF with the parameter CMD_CODE as an argument (R73). A data byte is `Other` (D18, log 19). -/
def commandOfWith (code : BitVec 3 → Command) (b : Byte) : Command :=
  if isData b then .other
  else if cmd3Of b ≠ 7#3 then code (cmd3Of b)
  else if b = 0xF0#8 then .sysExStart
  else if b = 0xF7#8 then .sysExEnd
  else .other

/-- `COMMAND_OF b` (R73). -/
def commandOf (b : Byte) : Command := commandOfWith cmdCode b

/-- `CHANNEL_OF b = b[3:0]`, total; meaningless for a system message or a data byte (R74). -/
def channelOf (b : Byte) : BitVec 4 := lowOf b

/-- `IS_COMMAND b, c` (R75). -/
def isCommand (b : Byte) (c : Command) : Bool := decide (commandOf b = c)

end Sys2Proof.Machine
end

