-- ==== Sys2Proof/Machine/SysexAccumulator.lean ====
section
/-! DEFINITION. The SysEx accumulator, `sysex_step` of 42_sysex_accumulator.md R110: one step of the two-state machine
IDLE, ACCUMULATING. It reads and writes XSTATE and XBUF, reads SX_CB, and nothing else; it never consults the filter
(R119, log 13). -/

namespace Sys2Proof.Machine

/-- Empty the buffer and return to IDLE: the end of every delivery and abort (R113-R116, D16). -/
def closeFrame (s : State) : State := (clearXbuf s).setXState .idle

/-- After an append: the C-th byte forces delivery (R113). -/
def closeIfFull (s : State) : State := if bufferFull s then closeFrame (deliverSysex s) else s

/-- `sysex_step(b)` (R110). IDLE: R111 (0xF0 opens a frame), R112 (anything else is ignored, D5, log 14). ACCUMULATING:
R113 (append, forced delivery at C), R114 (0xF7 delivers, the empty frame too, log 16), R115 and R116 (any other status
byte aborts, 0xF0 included and without a restart, log 15). -/
def sysexStep (b : Byte) (s : State) : Result :=
  match s.xstate with
  | .idle =>
    if isCommand b .sysExStart then .next ((clearXbuf s).setXState .accumulating) else .next s
  | .accumulating =>
    if isData b then andThen (writeXbuf s.xlen b s) fun t => .next (closeIfFull t)
    else if isCommand b .sysExEnd then .next (closeFrame (deliverSysex s))
    else .next (closeFrame s)

end Sys2Proof.Machine
end

