-- ==== Sys2Proof/Machine/ByteClasses.lean ====
section
/-! DEFINITION. FEED (44_operations.md R141) and the meaning of each byte class (40_classifier.md R76-R86): the byte the
class's fields stand for, fed to both machines. -/

namespace Sys2Proof.Machine

/-- `FEED(b)`: `core_step(b)`, then `sysex_step(b)`, on every byte (R141, D2, D3; log 12). -/
def feed (b : Byte) (s : State) : Result := sysexStep b (coreStep b s)

/-- DATA (R76). -/
def execData (payload : BitVec 7) (s : State) : Result := feed (dataByte payload) s

/-- NOTE_OFF (R77). -/
def execNoteOff (channel : BitVec 4) (s : State) : Result := feed (statusByte 0b000#3 channel) s

/-- NOTE_ON (R78). -/
def execNoteOn (channel : BitVec 4) (s : State) : Result := feed (statusByte 0b001#3 channel) s

/-- POLY_PRESSURE (R79). -/
def execPolyPressure (channel : BitVec 4) (s : State) : Result := feed (statusByte 0b010#3 channel) s

/-- CONTROL_CHANGE (R80). -/
def execControlChange (channel : BitVec 4) (s : State) : Result := feed (statusByte 0b011#3 channel) s

/-- PROGRAM_CHANGE (R81): two data bytes are awaited as after any status byte (R48). -/
def execProgramChange (channel : BitVec 4) (s : State) : Result := feed (statusByte 0b100#3 channel) s

/-- CHANNEL_PRESSURE (R82): two data bytes are awaited as after any status byte (R48). -/
def execChannelPressure (channel : BitVec 4) (s : State) : Result := feed (statusByte 0b101#3 channel) s

/-- PITCH_BEND (R83). -/
def execPitchBend (channel : BitVec 4) (s : State) : Result := feed (statusByte 0b110#3 channel) s

/-- SYSEX_START, 0xF0 (R84): to the core parser a status byte like any other. -/
def execSysexStart (s : State) : Result := feed (systemByte 0x0#4) s

/-- SYSEX_END, 0xF7 (R85): to the core parser a status byte like any other. -/
def execSysexEnd (s : State) : Result := feed (systemByte 0x7#4) s

/-- OTHER, 0xF1 (R86). -/
def execOtherF1 (s : State) : Result := feed (systemByte 0x1#4) s

/-- OTHER, 0xF2-0xF3 (R86). -/
def execOtherF2F3 (sub : BitVec 1) (s : State) : Result := feed (systemByte (0b001#3 ++ sub)) s

/-- OTHER, 0xF4-0xF5 (R86). -/
def execOtherF4F5 (sub : BitVec 1) (s : State) : Result := feed (systemByte (0b010#3 ++ sub)) s

/-- OTHER, 0xF6 (R86). -/
def execOtherF6 (s : State) : Result := feed (systemByte 0x6#4) s

/-- OTHER, 0xF8-0xFF (R86): the real-time bytes too, which are not transparent (R201). -/
def execOtherF8FF (sub : BitVec 3) (s : State) : Result := feed (systemByte (0b1#1 ++ sub)) s

end Sys2Proof.Machine
end

