-- ==== Sys2Proof/Machine/Codec.lean ====
section
/-! DEFINITION. The DAC codec (43_dac_codec.md): ENCODE, combinational, independent of the two machines (R130), and the
order of its word on the wire (R134). -/

namespace Sys2Proof.Machine

/-- `ENCODE ch, buf, gain, shdn, value` (R131): `{CH, BUF, GAIN, SHDN, value[11:0]}`. A value above 4095 is masked, never
rejected (R132). -/
def dacEncode (cfg : DacConfig) (value : Word) : Word :=
  packWord (channelCode cfg.channel) (bufferCode cfg.buffer) (gainCode cfg.gain) (shutdownCode cfg.shutdown)
    (value.extractLsb' 0 12)

/-- The bits of a word in the order they go on the wire: bit 15 first, bit 0 last (R134). -/
def wireBits (w : Word) : List Bool := (List.range 16).map fun i => w.getLsbD (15 - i)

/-- DAC_WORD: ENCODE of the row's operands; the word goes to the codec's output, no register changes (R130, R131). -/
def execDacWord (channel : ChannelSelect) (buf : BufferEnable) (gain : Gain) (shdn : Shutdown) (value : Word)
    (s : State) : Result :=
  reply (.word (dacEncode ⟨channel, buf, gain, shdn⟩ value)) s

end Sys2Proof.Machine
end

