-- ==== Sys2Proof/Machine/Dispatch.lean ====
section
/-! DEFINITION. One arm per row of the opcode table. -/

namespace Sys2Proof.Machine

def exec (i : Instr) (s : State) : Host.Outcome State Fault Refusal :=
  match i with
  | .data payload => Sys2Proof.Machine.execData payload s
  | .noteOff channel => Sys2Proof.Machine.execNoteOff channel s
  | .noteOn channel => Sys2Proof.Machine.execNoteOn channel s
  | .polyPressure channel => Sys2Proof.Machine.execPolyPressure channel s
  | .controlChange channel => Sys2Proof.Machine.execControlChange channel s
  | .programChange channel => Sys2Proof.Machine.execProgramChange channel s
  | .channelPressure channel => Sys2Proof.Machine.execChannelPressure channel s
  | .pitchBend channel => Sys2Proof.Machine.execPitchBend channel s
  | .sysexStart => Sys2Proof.Machine.execSysexStart s
  | .sysexEnd => Sys2Proof.Machine.execSysexEnd s
  | .otherF1 => Sys2Proof.Machine.execOtherF1 s
  | .otherF2F3 sub => Sys2Proof.Machine.execOtherF2F3 sub s
  | .otherF4F5 sub => Sys2Proof.Machine.execOtherF4F5 sub s
  | .otherF6 => Sys2Proof.Machine.execOtherF6 s
  | .otherF8FF sub => Sys2Proof.Machine.execOtherF8FF sub s
  | .dacWord channel buf gain shdn value => Sys2Proof.Machine.execDacWord channel buf gain shdn value s

end Sys2Proof.Machine
end

