-- ==== Sys2Proof/Machine/Operations.lean ====
section
/-! DEFINITION. The operations of the block (44_operations.md R140) and how a request of the environment is served. FEED
and the packed form of ENCODE carry encoded bits and go through the decoder to `exec`; the other operations have no
encoding, each its own port (30_encoding.md R54). -/

namespace Sys2Proof.Machine

/-- Run the instruction that the bytes of one encoded operand decode to. -/
def runBytes (bs : List Byte) (s : State) : Result :=
  match decode bs with
  | .ok i => exec i s
  | .error e => .refused (.undecodable e)

/-- `RESET` (R190, D13, log 22): every register of R10 to its reset value, MSG unspecified (log 5), OUT restarted, a
message or frame in progress discarded without delivery. -/
def performReset (s : State) : State :=
  let t := (clearXbuf (s.setPState .status)).setXState .idle
  let u := ((t.setFilt none).setMsgCb none).setSxCb none
  (scrambleMsg u).setOut []

/-- `SET_FILTER p`: `FILT <- some p` (R143). -/
def performSetFilter (p : StatusMask) (s : State) : State := s.setFilt (some p)

/-- `SET_MSG_CB h`: `MSG_CB <- some h` (R144). -/
def performSetMsgCb (h : Handler) (s : State) : State := s.setMsgCb (some h)

/-- `SET_SYSEX_CB h`: `SX_CB <- some h` (R145). -/
def performSetSysexCb (h : Handler) (s : State) : State := s.setSxCb (some h)

/-- Perform one operation whole: atomic, total, accepted in every state (R140, R37, R146). -/
def perform (o : Operation) (s : State) : Result :=
  match o with
  | .reset => .next (performReset s)
  | .feed b => runBytes [b] s
  | .setFilter p => .next (performSetFilter p s)
  | .setMsgCb h => .next (performSetMsgCb h s)
  | .setSysexCb h => .next (performSetSysexCb h s)
  | .isStatus b => reply (.bit (isStatus b)) s
  | .isData b => reply (.bit (isData b)) s
  | .commandOf b => reply (.command (commandOf b)) s
  | .channelOf b => reply (.channel (channelOf b)) s
  | .isCommand b c => reply (.bit (isCommand b c)) s
  | .encode cfg value => exec (.dacWord cfg.channel cfg.buffer cfg.gain cfg.shutdown value) s
  | .codecWord w => runBytes (wireBytes w) s

/-- The five state-touching operations of R140; the others are combinational. -/
def touchesState (o : Operation) : Bool :=
  match o with
  | .reset => true
  | .feed _ => true
  | .setFilter _ => true
  | .setMsgCb _ => true
  | .setSysexCb _ => true
  | .isStatus _ => false
  | .isData _ => false
  | .commandOf _ => false
  | .channelOf _ => false
  | .isCommand _ _ => false
  | .encode _ _ => false
  | .codecWord _ => false

/-- Serve one request. Two state-touching operations that overlap have no meaning and are refused (R175, R196, D22,
log 23); a combinational function may be used at any time, also inside a delivery (R70, R130, R175). -/
def serve (r : Request) (s : State) : Result :=
  match r with
  | .one o => perform o s
  | .overlapping first second =>
    if touchesState first && touchesState second then .refused .reentrant
    else andThen (perform first s) (perform second)

/-- The pseudo-operation `FEEDS b0 b1 ... bn` of R60, as requests. -/
def feeds (bs : List Byte) : List Request := bs.map fun b => .one (.feed b)

end Sys2Proof.Machine
end

