-- ==== Sys2Proof/Machine/Step.lean ====
section
/-! DEFINITION. The step: the environment's next request is served whole (20_memory.md R36, R37). With no request left
the block is parked: it keeps its state (60_exceptions.md R178, 70_reset_and_hazards.md R204). -/

namespace Sys2Proof.Machine

/-- One step of the machine. -/
def step (s : State) : Host.Outcome State Fault Refusal :=
  match s.stim with
  | [] => .next s
  | r :: rest => serve r (s.setStim rest)

/-- Place the encoded operand `w` of `nbits` bits as the next request: up to 8 bits through the FEED port, more through
the codec's (log 8). -/
def State.withFetchWord (s : State) (nbits w : Nat) : State :=
  if nbits ≤ 8 then s.setStim (.one (.feed (BitVec.ofNat 8 w)) :: s.stim)
  else s.setStim (.one (.codecWord (BitVec.ofNat 16 w)) :: s.stim)

end Sys2Proof.Machine
end

