-- ==== Sys2Proof/Machine/Application.lean ====
section
/-! DEFINITION. The application sub-protocol (45_application_reference.md R160-R164), "for reference/compatibility, not
core logic": outside the block, so no step calls it. It is written because it is the one stated link from a delivered
buffer to the operands of ENCODE (log 27). -/

namespace Sys2Proof.Machine

/-- GATE_OTHER: what the application does with a set-gate payload of 0x02..0x7F; OPEN (R6, R162, D25). -/
inductive GateOther where
  | ignore
  | treatAsOpen
deriving DecidableEq, Repr

/-- The parameters of the application, all OPEN: MFR_ID (7 bits), GATE_OTHER, DACCFG (R6, D25). -/
structure AppParams where
  mfrId : BitVec 7
  gateOther : GateOther
  dacCfg : DacConfig
deriving DecidableEq, Repr

/-- What the application does with a delivered buffer. -/
inductive AppAction where
  | ignore
  /-- Hand this word to the serial-transmit primitive (R161). -/
  | sendDac (w : Word)
  | closeGate
  | openGate
deriving DecidableEq, Repr

/-- `value16 = bytes[2] * 256 + bytes[3]`, big-endian (R161). -/
def appValue (hi lo : Byte) : Word := hi ++ lo

/-- The set-gate payload (R162). -/
def gateAction (other : GateOther) (payload : Byte) : AppAction :=
  if payload = 0x00#8 then .closeGate
  else if payload = 0x01#8 then .openGate
  else match other with
    | .ignore => .ignore
    | .treatAsOpen => .openGate

/-- Dispatch a delivered buffer on its length, identifier and sub-command (R160-R163): set DAC value, set gate, and
everything else ignored. -/
def appAction (p : AppParams) (bytes : List Byte) : AppAction :=
  match bytes with
  | [m, c, hi, lo] =>
    if m = 0b0#1 ++ p.mfrId ∧ c = 0x01#8 then .sendDac (dacEncode p.dacCfg (appValue hi lo)) else .ignore
  | [m, c, payload] => if m = 0b0#1 ++ p.mfrId ∧ c = 0x02#8 then gateAction p.gateOther payload else .ignore
  | _ => .ignore

end Sys2Proof.Machine
end

