-- ==== Sys2Proof/Machine/Instances.lean ====
section
/-! DEFINITION. Several instances of the block side by side (10_state.md R26, 60_exceptions.md R180): each has its own
state, and an operation on one reads and writes only that one (D27, log 26). -/

namespace Sys2Proof.Machine

/-- Step instance `k` of a bank; none when there is no such instance or its step gives no next state. -/
def stepInstance (bank : List State) (k : Nat) : Option (List State) :=
  match bank[k]? with
  | none => none
  | some s => (nextOf (step s)).map fun t => bank.set k t

end Sys2Proof.Machine
end

