-- ==== Sys2Proof/Safety.lean ====
section
/-! DEFINITION. What claims speak of: the invariants of 10_state.md R24, the link between the two machines behind
44_operations.md R149, and the sequence of steps of a stimulus. -/

namespace Sys2Proof.Machine

/-- The event is a `MsgReady`. -/
def Event.isMsgReady : Event → Bool
  | .msgReady _ _ _ _ => true
  | .sysExReady _ _ => false

/-- The event is a `SysExReady`. -/
def Event.isSysExReady : Event → Bool
  | .msgReady _ _ _ _ => false
  | .sysExReady _ _ => true

/-- R24 items 6 and 7 for one event, with capacity `c`. -/
def Event.lawful (c : Nat) : Event → Bool
  | .msgReady _ status data1 data2 => isStatus status && isData data1 && isData data2
  | .sysExReady _ bytes => decide (bytes.length ≤ c) && bytes.all isData

/-- R24 items 1 and 2: a message in progress has a status byte and, in DATA2, a data byte. -/
abbrev State.MsgInv (s : State) : Prop :=
  (s.pstate ≠ .status → isStatus s.msg.status = true) ∧ (s.pstate = .data2 → isData s.msg.data1 = true)

/-- R24 items 3, 4 and 5, and that XBUF is a sequence indexed from 0 (R16): the capacity is at least 1, the buffer is
empty in IDLE and holds at most C - 1 data bytes in ACCUMULATING. -/
abbrev State.XbufInv (s : State) : Prop :=
  1 ≤ s.capacity ∧ s.xbuf.contiguous = true ∧ (s.xstate = .idle → s.xbuf = []) ∧
    (s.xstate = .accumulating → s.xbuf.length + 1 ≤ s.capacity) ∧ s.xbuf.bytes.all isData = true

/-- R24 items 6 and 7: every event in OUT is lawful. -/
abbrev State.OutInv (s : State) : Prop := s.out.all (Event.lawful s.capacity) = true

/-- Behind R149: a message in progress while a frame is open is the frame's own, with 0xF0 as its status byte, and the
buffer holds the data bytes the message has. -/
abbrev State.LinkInv (s : State) : Prop :=
  s.xstate = .accumulating → s.pstate ≠ .status →
    s.msg.status = 0xF0#8 ∧ s.xbuf.bytes = (if s.pstate = .data1 then [] else [s.msg.data1])

/-- The invariant of the machine: R24 items 1 to 7 as far as one state can say them (item 1's "was accepted by the value
FILT had when it was stored" and item 7's tie of a length to its kind of delivery speak of the past), and the link. -/
abbrev State.Inv (s : State) : Prop := s.MsgInv ∧ s.XbufInv ∧ s.OutInv ∧ s.LinkInv

/-- Take `n` steps, stopping at the first fault or refusal. -/
def steps : Nat → State → Result
  | 0, s => .next s
  | n + 1, s => andThen (step s) (steps n)

/-- The state with the byte sequence `FEEDS bs` as all the environment has still to do (R60). -/
def State.withFeeds (s : State) (bs : List Byte) : State := s.setStim (feeds bs)

/-! ### The vocabulary of the claims about FEED -/

/-- The events the completion of a message with second data byte `b` adds to OUT (R97, R100). -/
def msgEvents (s : State) (b : Byte) : List Event :=
  (s.msgCb.map fun h => Event.msgReady h s.msg.status s.msg.data1 b).toList

/-- The events the delivery of `bytes` adds to OUT (R113, R114, R118). -/
def sysexEvents (s : State) (bytes : List Byte) : List Event :=
  (s.sxCb.map fun h => Event.sysExReady h bytes).toList

/-- The `MsgReady` events of OUT, in order. -/
def State.messages (s : State) : List Event := s.out.filter Event.isMsgReady

/-- The `SysExReady` events of OUT, in order. -/
def State.buffers (s : State) : List Event := s.out.filter Event.isSysExReady

/-- FILT is none, or it accepts the status byte `b` (R92, R93). -/
abbrev State.accepts (s : State) (b : Byte) : Prop := s.filt = none ∨ ∃ p ∈ s.filt, maskAccepts p b = true

/-- FILT holds a filter that rejects the status byte `b` (R92). -/
abbrev State.rejects (s : State) (b : Byte) : Prop := ∃ p ∈ s.filt, maskAccepts p b = false

/-- No register but PSTATE, MSG, XSTATE and XBUF, and no field of the model's own, differs between `s` and `t`; OUT may. -/
abbrev FeedFrame (s t : State) : Prop :=
  t.capacity = s.capacity ∧ t.filt = s.filt ∧ t.msgCb = s.msgCb ∧ t.sxCb = s.sxCb ∧ t.answer = s.answer ∧
    t.stim = s.stim ∧ t.freeCtr = s.freeCtr

/-- What a status byte does to the core parser: R93 (accepted), R92 (rejected), R94 and R96 (abort, swallowed). -/
abbrev CoreTakesStatus (b : Byte) (s t : State) : Prop :=
  (s.pstate = .status → s.accepts b → t.pstate = .data1 ∧ t.msg = ⟨b, s.msg.data1, s.msg.data2⟩) ∧
    (s.pstate = .status → s.rejects b → t.pstate = .status ∧ t.msg = s.msg) ∧
    (s.pstate ≠ .status → t.pstate = .status ∧ t.msg = s.msg)

/-- The twelve rows whose byte `b` is a status byte other than SysExStart and SysExEnd, with the row's pattern (R77-R83,
R86). The upper nibbles of the seven channel rows are the PRESUMED codes (D28, log 18). -/
abbrev PlainStatus (i : Instr) (b : Byte) : Prop :=
  (∃ n, i = .noteOff n ∧ b = 0b1000#4 ++ n) ∨ (∃ n, i = .noteOn n ∧ b = 0b1001#4 ++ n) ∨
    (∃ n, i = .polyPressure n ∧ b = 0b1010#4 ++ n) ∨ (∃ n, i = .controlChange n ∧ b = 0b1011#4 ++ n) ∨
    (∃ n, i = .programChange n ∧ b = 0b1100#4 ++ n) ∨ (∃ n, i = .channelPressure n ∧ b = 0b1101#4 ++ n) ∨
    (∃ n, i = .pitchBend n ∧ b = 0b1110#4 ++ n) ∨ (i = .otherF1 ∧ b = 0xF1#8) ∨
    (∃ n, i = .otherF2F3 n ∧ b = 0b1111001#7 ++ n) ∨ (∃ n, i = .otherF4F5 n ∧ b = 0b1111010#7 ++ n) ∨
    (i = .otherF6 ∧ b = 0xF6#8) ∨ (∃ n, i = .otherF8FF n ∧ b = 0b11111#5 ++ n)

/-- The request issues RESET. -/
def Request.resets : Request → Bool
  | .one o => decide (o = .reset)
  | .overlapping first second => decide (first = .reset) || decide (second = .reset)

end Sys2Proof.Machine
end

