-- ==== Sys2Proof/WellFormed.lean ====
section
/-! DEFINITION. Well-formedness of syntax: the one operand that is wider than its field. -/

namespace Sys2Proof

/-- The `VALUE` field of the DAC word has 12 bits (30_encoding.md R50, R57). -/
def valueFits (value : Word) : Bool := decide (value.toNat < 4096)

/-- An instruction its row can encode: every operand is as wide as its field, but for the 16-bit `value` of DAC_WORD,
which must fit 12 bits. (ENCODE itself accepts every value, R132; this is about the encoded form only.) -/
def Instr.wellFormed : Instr → Bool
  | .data _ => true
  | .noteOff _ => true
  | .noteOn _ => true
  | .polyPressure _ => true
  | .controlChange _ => true
  | .programChange _ => true
  | .channelPressure _ => true
  | .pitchBend _ => true
  | .sysexStart => true
  | .sysexEnd => true
  | .otherF1 => true
  | .otherF2F3 _ => true
  | .otherF4F5 _ => true
  | .otherF6 => true
  | .otherF8FF _ => true
  | .dacWord _ _ _ _ value => valueFits value

end Sys2Proof
end

