-- ==== Sys2Proof/Certificates/Slice0/Obligations.lean ====
section
/-! DEFINITION. The statements for the provers. Each docstring names the rule of spec/ it formalises; where a statement
rests on a decision of the spec (D<n>) or on a choice of the model (log <n>), it says so. -/

open Sys2Proof Sys2Proof.Machine

/-! ### Encoding -/

/-- Words written out from the patterns of 30_encoding.md R52 and R50 decode to what they stand for. The model's: that
0x93 is NOTE_ON and 0xEF PITCH_BEND rests on the PRESUMED channel codes (D28, log 18), the two bytes of the DAC word on
its byte layout (DESIGN CHOICE, log 8) and its members on the one-bit codes (D20, log 20). -/
def Obligations.WrittenWordsDecode : Prop :=
  decode [0b00111100#8] = .ok (.data 0x3C#7) ∧ decode [0b10010011#8] = .ok (.noteOn 3#4) ∧
    decode [0b11101111#8] = .ok (.pitchBend 15#4) ∧ decode [0b11110000#8] = .ok .sysexStart ∧
    decode [0b11110111#8] = .ok .sysexEnd ∧ decode [0b11110011#8] = .ok (.otherF2F3 1#1) ∧
    decode [0b11111110#8] = .ok (.otherF8FF 6#3) ∧
    decode [0b01110000#8, 0b00010000#8] = .ok (.dacWord .selector0 .on .x1 .active 0x0010#16)

/-- R52: the rows of the table partition the 256 bytes, and the decoder gives the row that covers the byte. The seven
channel codes are the standard ones (D28, log 18). -/
def Obligations.EveryByteHasExactlyOneRow : Prop :=
  ∀ b : Byte, ∃ r ∈ byteRows, r.covers b = true ∧ (decodeByte b).mnemonic = r.mnemonic ∧
    ∀ r' ∈ byteRows, r'.covers b = true → r' = r

/-- The model's layout (DESIGN CHOICE, log 8): bytes decode exactly when they are one, an input byte of FEED, or two, a DAC
word; no bytes and three or more are refused; what bytes decode to is well formed. Of this R55 gives only that no single
input byte is invalid; the spec gives the operations ports (R54), no lengths. -/
def Obligations.DecodeRefusesByLengthAlone : Prop :=
  ∀ bs : List Byte, ((∃ i, decode bs = .ok i) ↔ bs.length = 1 ∨ bs.length = 2) ∧
    ∀ i, decode bs = .ok i → i.wellFormed = true

/-- Decode and encode agree: decoding the encoding of a well-formed instruction gives it back. -/
def Obligations.DecodeAfterEncode : Prop :=
  ∀ i : Instr, i.wellFormed = true → decode (encode i) = .ok i

/-- The other direction: every encoded operand has one instruction, whose encoding it is. -/
def Obligations.EncodeAfterDecode : Prop :=
  ∀ (bs : List Byte) (i : Instr), decode bs = .ok i → encode i = bs

/-! ### The step -/

/-- A step serves the oldest request: FEED and the packed DAC word run the instruction their bits decode to, ENCODE runs
the instruction its operands make; besides `exec`, the step takes the request off `stim`. The model's choices (DESIGN
CHOICE): the queue (log 7), the packed form of ENCODE's operands and its bytes (log 8), and that ENCODE is the instruction
DAC_WORD (log 9). -/
def Obligations.StepRunsDecodedInstruction : Prop :=
  ∀ (s : State) (rest : List Request),
    (∀ (b : Byte) (i : Instr), s.stim = .one (.feed b) :: rest → decode [b] = .ok i →
      step s = exec i (s.setStim rest)) ∧
    (∀ (w : Word) (i : Instr), s.stim = .one (.codecWord w) :: rest → decode (wireBytes w) = .ok i →
      step s = exec i (s.setStim rest)) ∧
    (∀ (cfg : DacConfig) (value : Word), s.stim = .one (.encode cfg value) :: rest →
      step s = exec (.dacWord cfg.channel cfg.buffer cfg.gain cfg.shutdown value) (s.setStim rest))

/-! ### Reset -/

/-- R10, R190: the registers whose value after reset the spec gives (its decisions D6, D13), and that nothing is in
progress. -/
def Obligations.ResetStateHasTheGivenValues : Prop :=
  State.reset.pstate = .status ∧ State.reset.xstate = .idle ∧ State.reset.xbuf = [] ∧ State.reset.xlen = 0 ∧
    State.reset.filt = none ∧ State.reset.msgCb = none ∧ State.reset.sxCb = none ∧ State.reset.out = []

/-- The invariant of R24 holds after reset. -/
def Obligations.InvariantHoldsAtReset : Prop := State.reset.Inv

/-- R190 (decision D13): RESET completes in every state, drops what was in progress, unregisters the filter and both
consumers, restarts OUT and emits nothing. Nothing is said of MSG, which RESET leaves unspecified. The capacity and the
environment's requests are no registers and stay. -/
def Obligations.ResetOperationRestartsTheBlock : Prop :=
  ∀ s : State, ∃ t, perform .reset s = .next t ∧ t.pstate = .status ∧ t.xstate = .idle ∧ t.xbuf = [] ∧
    t.filt = none ∧ t.msgCb = none ∧ t.sxCb = none ∧ t.out = [] ∧ t.capacity = s.capacity ∧ t.stim = s.stim

/-! ### The classifier -/

/-- R71, R87: IS_STATUS is true for exactly 0x80..0xFF, IS_DATA for exactly the others. -/
def Obligations.ClassifierSplitsOnTheHighBit : Prop :=
  ∀ b : Byte, isStatus b = decide (128 ≤ b.toNat) ∧ isData b = decide (b.toNat < 128)

/-- R74: CHANNEL_OF is the low nibble, for every byte. -/
def Obligations.ChannelIsTheLowNibble : Prop := ∀ b : Byte, (channelOf b).toNat = b.toNat % 16

/-- R73, with the codes of D28 (PRESUMED, log 18) and a data byte `Other` (D18, log 19). -/
def Obligations.CommandFollowsTheByteValue : Prop :=
  ∀ b : Byte, commandOf b =
    if b.toNat < 0x80 then .other
    else if b.toNat < 0x90 then .noteOff
    else if b.toNat < 0xA0 then .noteOn
    else if b.toNat < 0xB0 then .polyPressure
    else if b.toNat < 0xC0 then .controlChange
    else if b.toNat < 0xD0 then .programChange
    else if b.toNat < 0xE0 then .channelPressure
    else if b.toNat < 0xF0 then .pitchBend
    else if b.toNat = 0xF0 then .sysExStart
    else if b.toNat = 0xF7 then .sysExEnd
    else .other

/-- R75: IS_COMMAND compares the answer of COMMAND_OF; SysExStart is 0xF0 only and SysExEnd 0xF7 only. -/
def Obligations.IsCommandComparesTheCommand : Prop :=
  ∀ (b : Byte) (c : Command), isCommand b c = decide (commandOf b = c) ∧
    (isCommand b .sysExStart = true ↔ b = 0xF0#8) ∧ (isCommand b .sysExEnd = true ↔ b = 0xF7#8)

/-- The five classifier operations complete in every state with the answer of their function, and touch no register
(R70). That the answer stands in a field of State is the model's choice (log 9). -/
def Obligations.ClassifierOperationsAnswer : Prop :=
  ∀ (b : Byte) (c : Command) (s : State),
    perform (.isStatus b) s = .next (s.setAnswer (some (.bit (isStatus b)))) ∧
    perform (.isData b) s = .next (s.setAnswer (some (.bit (isData b)))) ∧
    perform (.commandOf b) s = .next (s.setAnswer (some (.command (commandOf b)))) ∧
    perform (.channelOf b) s = .next (s.setAnswer (some (.channel (channelOf b)))) ∧
    perform (.isCommand b c) s = .next (s.setAnswer (some (.bit (isCommand b c))))

/-- R70, R130: a combinational function is a function of its operands alone: its answer is the same in every state, it
touches no register and emits no event. That the answer stands in a field of State is the model's choice (log 9). -/
def Obligations.CombinationalFunctionsTouchNothing : Prop :=
  ∀ o : Operation, touchesState o = false → ∃ a : Answer, ∀ s : State, perform o s = .next (s.setAnswer (some a))

/-! ### The DAC codec -/

/-- The word of ENCODE as the arithmetic form of R131 says, for every configuration and every 16-bit value. Which member of
each enumeration has code 1 is the spec's decision (R58, D20; log 20). -/
def Obligations.DacWordIsTheWeightedSum : Prop :=
  ∀ (ch : ChannelSelect) (buf : BufferEnable) (gain : Gain) (shdn : Shutdown) (value : Word),
    (dacEncode ⟨ch, buf, gain, shdn⟩ value).toNat =
      (if ch = .selector1 then 32768 else 0) + (if buf = .on then 16384 else 0) +
        (if gain = .x1 then 8192 else 0) + (if shdn = .active then 4096 else 0) + value.toNat % 4096

/-- R132: a value out of range is masked: it encodes as its low 12 bits do, and 4096 as 0, not as 4095. -/
def Obligations.DacValueIsMasked : Prop :=
  ∀ (cfg : DacConfig) (value : Word),
    dacEncode cfg value = dacEncode cfg (BitVec.ofNat 16 (value.toNat % 4096)) ∧
      dacEncode cfg 4096#16 = dacEncode cfg 0#16 ∧ dacEncode cfg 4096#16 ≠ dacEncode cfg 4095#16

/-- DAC_WORD completes in every state with the word of ENCODE, for every value, in range or not, and touches no register
(R130, R132). That the word stands in a field of State is the model's choice (log 9). -/
def Obligations.DacWordAnswersItsWord : Prop :=
  ∀ (ch : ChannelSelect) (buf : BufferEnable) (gain : Gain) (shdn : Shutdown) (value : Word) (s : State),
    exec (.dacWord ch buf gain shdn value) s =
        .next (s.setAnswer (some (.word (dacEncode ⟨ch, buf, gain, shdn⟩ value)))) ∧
      perform (.encode ⟨ch, buf, gain, shdn⟩ value) s =
        .next (s.setAnswer (some (.word (dacEncode ⟨ch, buf, gain, shdn⟩ value))))

/-- R133: restricted to values 0..4095, ENCODE is a bijection onto the 16-bit words. -/
def Obligations.DacWordsAreBijective : Prop :=
  ∀ w : Word, ∃ cfg : DacConfig, ∃ value : Word, value.toNat < 4096 ∧ dacEncode cfg value = w ∧
    ∀ (cfg' : DacConfig) (value' : Word), value'.toNat < 4096 → dacEncode cfg' value' = w → cfg' = cfg ∧ value' = value

/-- R133: the operands packed as a DAC word give that very word back through the decoder and ENCODE. -/
def Obligations.PackedOperandsGiveTheirWord : Prop :=
  ∀ (w : Word) (s : State), perform (.codecWord w) s = .next (s.setAnswer (some (.word w)))

/-- R134: bit 15 goes on the wire first, bit 0 last; as two bytes, `word[15:8]` first. -/
def Obligations.WordGoesOutMostSignificantFirst : Prop :=
  ∀ w : Word, (wireBits w).length = 16 ∧
    (wireBits w).foldl (fun n b => 2 * n + b.toNat) 0 = w.toNat ∧
    ∃ hi lo : Byte, wireBytes w = [hi, lo] ∧ hi.toNat * 256 + lo.toNat = w.toNat

/-! ### FEED, the core parser -/

/-- The seven rows of the core parser, R91-R97, for every byte and every state whose buffer is in order: PSTATE, MSG and
the `MsgReady` events after FEED, and that no control register changes. The filter has a say in STATUS alone. -/
def Obligations.CoreParserFollowsItsTable : Prop :=
  ∀ (s : State) (b : Byte) (i : Instr), s.XbufInv → decode [b] = .ok i → ∃ t, exec i s = .next t ∧ FeedFrame s t ∧
    (s.pstate = .status → isData b = true → t.pstate = .status ∧ t.msg = s.msg ∧ t.messages = s.messages) ∧
    (s.pstate = .status → isStatus b = true → s.rejects b →
      t.pstate = .status ∧ t.msg = s.msg ∧ t.messages = s.messages) ∧
    (s.pstate = .status → isStatus b = true → s.accepts b →
      t.pstate = .data1 ∧ t.msg = ⟨b, s.msg.data1, s.msg.data2⟩ ∧ t.messages = s.messages) ∧
    (s.pstate = .data1 → isStatus b = true → t.pstate = .status ∧ t.msg = s.msg ∧ t.messages = s.messages) ∧
    (s.pstate = .data1 → isData b = true →
      t.pstate = .data2 ∧ t.msg = ⟨s.msg.status, b, s.msg.data2⟩ ∧ t.messages = s.messages) ∧
    (s.pstate = .data2 → isStatus b = true → t.pstate = .status ∧ t.msg = s.msg ∧ t.messages = s.messages) ∧
    (s.pstate = .data2 → isData b = true →
      t.pstate = .status ∧ t.msg = ⟨s.msg.status, s.msg.data1, b⟩ ∧
        t.messages = s.messages ++ (s.msgCb.map fun h => Event.msgReady h s.msg.status s.msg.data1 b).toList)

/-- R98: a status byte in DATA1 or DATA2 is consumed as the abort: the data bytes after it are ignored, MSG keeps its
bytes, no message is delivered; a further, accepted status byte starts the next message, which is delivered once. -/
def Obligations.InterruptingStatusByteIsSwallowed : Prop :=
  ∀ (s : State) (b d1 d2 : Byte), s.XbufInv → s.pstate ≠ .status → isStatus b = true → isData d1 = true →
    isData d2 = true →
    (∃ t, steps 3 (s.withFeeds [b, d1, d2]) = .next t ∧ t.pstate = .status ∧ t.msg = s.msg ∧
      t.messages = s.messages) ∧
    ∀ b' : Byte, isStatus b' = true → s.accepts b' →
      ∃ t, steps 4 (s.withFeeds [b, b', d1, d2]) = .next t ∧ t.pstate = .status ∧ t.msg = ⟨b', d1, d2⟩ ∧
        t.messages = s.messages ++ (s.msgCb.map fun h => Event.msgReady h b' d1 d2).toList

/-- From R93, R95 and R97: a status byte the filter accepts and two data bytes, fed in STATUS, are delivered exactly
once, with exactly these three bytes. -/
def Obligations.WellFormedMessageIsDeliveredOnce : Prop :=
  ∀ (s : State) (b d1 d2 : Byte), s.XbufInv → s.pstate = .status → isStatus b = true → s.accepts b →
    isData d1 = true → isData d2 = true →
    ∃ t, steps 3 (s.withFeeds [b, d1, d2]) = .next t ∧ t.pstate = .status ∧ t.msg = ⟨b, d1, d2⟩ ∧
      t.messages = s.messages ++ (s.msgCb.map fun h => Event.msgReady h b d1 d2).toList

/-- R193, R202: with no message and no frame open, data bytes, however many, change nothing: there is no running
status. That the accumulator ignores them in IDLE is the spec's decision (D5; log 14). -/
def Obligations.DataBytesAloneChangeNothing : Prop :=
  ∀ (s : State) (bs : List Byte), s.pstate = .status → s.xstate = .idle → (∀ b ∈ bs, isData b = true) →
    steps bs.length (s.withFeeds bs) = .next (s.setStim [])

/-- R92, with the reading of D24: under a filter that rejects every status byte the core parser stays in STATUS and no
`MsgReady` is emitted, whatever bytes are fed and however many. -/
def Obligations.RejectingFilterSilencesMessages : Prop :=
  ∀ (s : State) (bs : List Byte) (p : StatusMask), s.XbufInv → s.pstate = .status → s.filt = some p →
    (∀ b, isStatus b = true → maskAccepts p b = false) →
    ∃ t, steps bs.length (s.withFeeds bs) = .next t ∧ t.pstate = .status ∧ t.msg = s.msg ∧ t.messages = s.messages

/-! ### FEED, the accumulator -/

/-- The rows of R111, R113 and R115: a start in IDLE, a data byte and an aborting status byte in ACCUMULATING: XSTATE, XBUF
(byte by byte) and the `SysExReady` events after FEED. Two points are decisions of the spec: a second 0xF0 is one of the
aborting bytes and starts no frame (R116, D7; log 15), and a delivery empties the buffer (D16; log 14). -/
def Obligations.AccumulatorFollowsItsTable : Prop :=
  ∀ (s : State) (b : Byte) (i : Instr), s.XbufInv → decode [b] = .ok i → ∃ t, exec i s = .next t ∧ FeedFrame s t ∧
    (s.xstate = .idle → b = 0xF0#8 → t.xstate = .accumulating ∧ t.xbuf = [] ∧ t.buffers = s.buffers) ∧
    (s.xstate = .accumulating → isData b = true → s.xlen + 1 < s.capacity →
      t.xstate = .accumulating ∧ t.xbuf.read s.xlen = some b ∧
        (∀ a, a ≠ s.xlen → t.xbuf.read a = s.xbuf.read a) ∧ t.xlen = s.xlen + 1 ∧ t.buffers = s.buffers) ∧
    (s.xstate = .accumulating → isData b = true → s.xlen + 1 = s.capacity →
      t.xstate = .idle ∧ t.xbuf = [] ∧
        t.buffers = s.buffers ++ (s.sxCb.map fun h => Event.sysExReady h (s.xbuf.bytes ++ [b])).toList) ∧
    (s.xstate = .accumulating → isStatus b = true → b ≠ 0xF7#8 →
      t.xstate = .idle ∧ t.xbuf = [] ∧ t.buffers = s.buffers)

/-- R112 (D5), R114 with the empty frame (D31), R116 (D7): in IDLE nothing but 0xF0 matters; 0xF7 delivers what is there,
an empty buffer too; a second 0xF0 aborts and does not restart. -/
def Obligations.AccumulatorFollowsTheSpecsDecisions : Prop :=
  ∀ (s : State) (b : Byte) (i : Instr), s.XbufInv → decode [b] = .ok i → ∃ t, exec i s = .next t ∧ FeedFrame s t ∧
    (s.xstate = .idle → b ≠ 0xF0#8 → t.xstate = .idle ∧ t.xbuf = [] ∧ t.buffers = s.buffers) ∧
    (s.xstate = .accumulating → b = 0xF7#8 → t.xstate = .idle ∧ t.xbuf = [] ∧
      t.buffers = s.buffers ++ (s.sxCb.map fun h => Event.sysExReady h s.xbuf.bytes).toList) ∧
    (s.xstate = .accumulating → b = 0xF0#8 → t.xstate = .idle ∧ t.xbuf = [] ∧ t.buffers = s.buffers)

/-- R117, R148 first row: with a filter that rejects 0xF0 and 0xF7, a whole frame of fewer than C data bytes is delivered
exactly once, as its bytes in order, and nothing else in the state changes. It rests on decisions of the spec: the filter
does not stop the accumulator (D4; log 13), and an empty frame is delivered (D31; log 16). -/
def Obligations.FilteredFrameIsDeliveredWhole : Prop :=
  ∀ (s : State) (payload : List Byte), s.XbufInv → s.pstate = .status → s.xstate = .idle → s.rejects 0xF0#8 →
    s.rejects 0xF7#8 → (∀ b ∈ payload, isData b = true) → payload.length < s.capacity →
    steps (payload.length + 2) (s.withFeeds (0xF0#8 :: payload ++ [0xF7#8])) =
      .next ((s.setStim []).setOut (s.out ++ sysexEvents s payload))

/-- R148, the unfiltered rows: the accumulator delivers the frame, and the core parser, which sees the same bytes, delivers
a triple of 0xF0 and the first two data bytes if there are two, and is then left in DATA1 by the 0xF7. It rests on
decisions of the spec: both machines see every byte (D2; log 12), and an empty frame is delivered (D31; log 16). -/
def Obligations.UnfilteredFrameReachesBothMachines : Prop :=
  ∀ (s : State) (payload : List Byte), s.XbufInv → s.pstate = .status → s.xstate = .idle → s.filt = none →
    (∀ b ∈ payload, isData b = true) → payload.length < s.capacity →
    ∃ t, steps (payload.length + 2) (s.withFeeds (0xF0#8 :: payload ++ [0xF7#8])) = .next t ∧
      t.xstate = .idle ∧ t.xbuf = [] ∧ t.buffers = s.buffers ++ sysexEvents s payload ∧
      t.pstate = (if 2 ≤ payload.length then .data1 else .status) ∧
      t.msg.status = (if 2 ≤ payload.length then 0xF7#8 else 0xF0#8) ∧
      t.messages = s.messages ++ (match payload with
        | d1 :: d2 :: _ => (s.msgCb.map fun h => Event.msgReady h 0xF0#8 d1 d2).toList
        | _ => [])

/-- R113 corner case 4, R203, under a filter that rejects 0xF0: a frame of C or more data bytes is delivered exactly once,
as its first C bytes; the rest is ignored. It rests on decisions of the spec: the filter does not stop the accumulator
(D4; log 13), and data bytes in IDLE are ignored (D5; log 14). -/
def Obligations.OverlongFrameIsCutAtTheCapacity : Prop :=
  ∀ (s : State) (payload : List Byte), s.XbufInv → s.pstate = .status → s.xstate = .idle → s.rejects 0xF0#8 →
    (∀ b ∈ payload, isData b = true) → s.capacity ≤ payload.length →
    steps (payload.length + 1) (s.withFeeds (0xF0#8 :: payload)) =
      .next ((s.setStim []).setOut (s.out ++ sysexEvents s (payload.take s.capacity)))

/-! ### FEED, class by class: the whole next state and its frame -/

/-- R76: DATA completes in every state whose buffer is in order; everything it changes, and that nothing else changes.
It rests on decisions of the spec: both machines see the byte and `MsgReady` comes before `SysExReady` (D2, D3; log 12),
the byte is ignored in IDLE and a delivery empties the buffer (D5, D16; log 14). -/
def Obligations.DataByteResult : Prop :=
  ∀ (payload : BitVec 7) (s : State), s.XbufInv → ∃ t, exec (.data payload) s = .next t ∧ FeedFrame s t ∧
    (s.pstate = .status → t.pstate = .status ∧ t.msg = s.msg) ∧
    (s.pstate = .data1 → t.pstate = .data2 ∧ t.msg = ⟨s.msg.status, 0b0#1 ++ payload, s.msg.data2⟩) ∧
    (s.pstate = .data2 → t.pstate = .status ∧ t.msg = ⟨s.msg.status, s.msg.data1, 0b0#1 ++ payload⟩) ∧
    (s.xstate = .idle → t.xstate = .idle ∧ ∀ a, t.xbuf.read a = s.xbuf.read a) ∧
    (s.xstate = .accumulating → s.xlen + 1 < s.capacity → t.xstate = .accumulating ∧
      t.xbuf.read s.xlen = some (0b0#1 ++ payload) ∧ ∀ a, a ≠ s.xlen → t.xbuf.read a = s.xbuf.read a) ∧
    (s.xstate = .accumulating → s.xlen + 1 = s.capacity → t.xstate = .idle ∧ t.xbuf = []) ∧
    t.out = s.out ++ (if s.pstate = .data2 then msgEvents s (0b0#1 ++ payload) else []) ++
      (if s.xstate = .accumulating ∧ s.xlen + 1 = s.capacity then
        sysexEvents s (s.xbuf.bytes ++ [0b0#1 ++ payload]) else [])

/-- R77-R83, R86: the twelve status-byte rows other than SYSEX_START and SYSEX_END complete in every state; everything
they change, and that nothing else changes: no event, and no byte of XBUF unless an open frame is aborted. Which upper
nibble is which of the seven channel rows (`PlainStatus`) rests on the PRESUMED codes (D28, log 18). It
rests on decisions of the spec too: both machines see the byte (D2; log 12), it is ignored in IDLE and an abort empties
the buffer (D5, D16; log 14). -/
def Obligations.PlainStatusByteResult : Prop :=
  ∀ (i : Instr) (b : Byte) (s : State), PlainStatus i b → ∃ t, exec i s = .next t ∧ FeedFrame s t ∧
    CoreTakesStatus b s t ∧ (s.xstate = .idle → t.xstate = .idle ∧ ∀ a, t.xbuf.read a = s.xbuf.read a) ∧
    (s.xstate = .accumulating → t.xstate = .idle ∧ t.xbuf = []) ∧ t.out = s.out

/-- R84: SYSEX_START completes in every state: a status byte like any other to the core parser; it opens a frame in IDLE
and aborts one in ACCUMULATING; no event; nothing else changes. It rests on decisions of the spec: both machines see the
byte (D2; log 12), a second 0xF0 starts no frame (D7; log 15), an abort empties the buffer (D16; log 14). -/
def Obligations.SysexStartResult : Prop :=
  ∀ s : State, ∃ t, exec .sysexStart s = .next t ∧ FeedFrame s t ∧ CoreTakesStatus 0xF0#8 s t ∧
    (s.xstate = .idle → t.xstate = .accumulating ∧ t.xbuf = []) ∧
    (s.xstate = .accumulating → t.xstate = .idle ∧ t.xbuf = []) ∧ t.out = s.out

/-- R85: SYSEX_END completes in every state: a status byte like any other to the core parser; it is ignored in IDLE and
delivers the buffer in ACCUMULATING; nothing else changes. It rests on decisions of the spec: both machines see the byte
(D2; log 12), it is ignored in IDLE and a delivery empties the buffer (D5, D16; log 14), an empty buffer is delivered
(D31; log 16). -/
def Obligations.SysexEndResult : Prop :=
  ∀ s : State, ∃ t, exec .sysexEnd s = .next t ∧ FeedFrame s t ∧ CoreTakesStatus 0xF7#8 s t ∧
    (s.xstate = .idle → t.xstate = .idle ∧ ∀ a, t.xbuf.read a = s.xbuf.read a) ∧
    (s.xstate = .accumulating → t.xstate = .idle ∧ t.xbuf = []) ∧
    t.out = s.out ++ (if s.xstate = .accumulating then sysexEvents s s.xbuf.bytes else [])

/-! ### Composition -/

/-- R141 (D2): the result of a FEED on (PSTATE, MSG) depends only on (PSTATE, MSG, FILT, MSG_CB) and the byte. -/
def Obligations.CoreParserIsBlindToTheAccumulator : Prop :=
  ∀ (s s' t t' : State) (b : Byte) (i : Instr), decode [b] = .ok i → s.pstate = s'.pstate → s.msg = s'.msg →
    s.filt = s'.filt → s.msgCb = s'.msgCb → s.messages = s'.messages → exec i s = .next t → exec i s' = .next t' →
    t.pstate = t'.pstate ∧ t.msg = t'.msg ∧ t.messages = t'.messages

/-- R141 (D2), R119 (D4): the result of a FEED on (XSTATE, XBUF) depends only on (XSTATE, XBUF, SX_CB, C) and the byte;
the filter has no effect on it. -/
def Obligations.AccumulatorIsBlindToFilterAndCoreParser : Prop :=
  ∀ (s s' t : State) (b : Byte) (i : Instr), decode [b] = .ok i → s.capacity = s'.capacity → s.xstate = s'.xstate →
    s.xbuf = s'.xbuf → s.sxCb = s'.sxCb → s.buffers = s'.buffers → exec i s = .next t →
    ∃ t', exec i s' = .next t' ∧ t.xstate = t'.xstate ∧ t.xbuf = t'.xbuf ∧ t.buffers = t'.buffers

/-- R100, R118: without a registered consumer both machines go through the same states and contents; only the events of
that consumer are missing, and they are lost. -/
def Obligations.MissingConsumerLosesOnlyItsEvents : Prop :=
  ∀ (s t : State) (b : Byte) (i : Instr), decode [b] = .ok i → exec i s = .next t →
    (∃ t', exec i (s.setMsgCb none) = .next t' ∧ t'.pstate = t.pstate ∧ t'.msg = t.msg ∧ t'.xstate = t.xstate ∧
      t'.xbuf = t.xbuf ∧ t'.buffers = t.buffers ∧ t'.messages = s.messages) ∧
    (∃ t', exec i (s.setSxCb none) = .next t' ∧ t'.pstate = t.pstate ∧ t'.msg = t.msg ∧ t'.xstate = t.xstate ∧
      t'.xbuf = t.xbuf ∧ t'.messages = t.messages ∧ t'.buffers = s.buffers)

/-- R18: a registered filter that accepts every status byte is indistinguishable from none. -/
def Obligations.AcceptingFilterIsLikeNoFilter : Prop :=
  ∀ (s t : State) (p : StatusMask) (b : Byte) (i : Instr), (∀ c, isStatus c = true → maskAccepts p c = true) →
    decode [b] = .ok i → exec i (s.setFilt (some p)) = .next t → exec i (s.setFilt none) = .next (t.setFilt none)

/-- R18: the 128-bit mask of a predicate answers as the predicate does on every status byte (the model's form of FILT,
log 3). -/
def Obligations.MaskAnswersAsItsPredicate : Prop :=
  ∀ (p : Byte → Bool) (b : Byte), isStatus b = true → maskAccepts (maskOf p) b = p b

/-- R24 item 8, R141, R173: one FEED appends to OUT at most one `MsgReady` and then at most one `SysExReady`.
The order is the spec's decision (D3; log 12). -/
def Obligations.FeedEmitsMessageThenBuffer : Prop :=
  ∀ (s t : State) (b : Byte) (i : Instr), decode [b] = .ok i → exec i s = .next t →
    ∃ ms xs : List Event, t.out = s.out ++ ms ++ xs ∧ ms.length ≤ 1 ∧ xs.length ≤ 1 ∧
      (∀ e ∈ ms, e.isMsgReady = true) ∧ ∀ e ∈ xs, e.isSysExReady = true

/-- R149: in a state that meets the invariant, a FEED that emits two events has C = 2, the frame's own 0xF0 as the
message's status byte, and delivers the same two data bytes twice, the message first (D3; log 12). -/
def Obligations.TwoEventsInOneFeedNeedCapacityTwo : Prop :=
  ∀ (s t : State) (b : Byte) (i : Instr) (e₁ e₂ : Event), s.Inv → decode [b] = .ok i → exec i s = .next t →
    t.out = s.out ++ [e₁, e₂] →
    s.capacity = 2 ∧ ∃ (h g : Handler) (d1 : Byte), s.msgCb = some h ∧ s.sxCb = some g ∧
      isData d1 = true ∧ isData b = true ∧ e₁ = .msgReady h 0xF0#8 d1 b ∧ e₂ = .sysExReady g [d1, b]

/-! ### Registration and the operations -/

/-- R143, R144, R145: each SET completes in every state, writes its one register, touches nothing else and emits
nothing; a second one overwrites the first. -/
def Obligations.RegistrationWritesOneRegister : Prop :=
  ∀ (s : State) (p p' : StatusMask) (h h' : Handler),
    (∃ t, perform (.setFilter p) s = .next t ∧ t = { s with filt := some p } ∧
      perform (.setFilter p') t = perform (.setFilter p') s) ∧
    (∃ t, perform (.setMsgCb h) s = .next t ∧ t = { s with msgCb := some h } ∧
      perform (.setMsgCb h') t = perform (.setMsgCb h') s) ∧
    (∃ t, perform (.setSysexCb h) s = .next t ∧ t = { s with sxCb := some h } ∧
      perform (.setSysexCb h') t = perform (.setSysexCb h') s)

/-- R140's columns "writes" and "events", R12, R147: the two machines move by FEED and RESET alone, each control register
changes by its SET and RESET alone (so nothing unregisters but RESET), and no operation writes the capacity. -/
def Obligations.OperationsWriteOnlyTheirRegisters : Prop :=
  ∀ (o : Operation) (s t : State), perform o s = .next t →
    t.capacity = s.capacity ∧ t.stim = s.stim ∧
    (o ≠ .reset → (∀ b, o ≠ .feed b) →
      t.pstate = s.pstate ∧ t.msg = s.msg ∧ t.xstate = s.xstate ∧ t.xbuf = s.xbuf ∧ t.out = s.out) ∧
    (o ≠ .reset → (∀ p, o ≠ .setFilter p) → t.filt = s.filt) ∧
    (o ≠ .reset → (∀ h, o ≠ .setMsgCb h) → t.msgCb = s.msgCb) ∧
    (o ≠ .reset → (∀ h, o ≠ .setSysexCb h) → t.sxCb = s.sxCb)

/-- R140 ("total: it is accepted in every state, for every operand value, and always completes"), R142: under the
invariant of R24 every operation completes. -/
def Obligations.EveryOperationCompletes : Prop :=
  ∀ (o : Operation) (s : State), s.XbufInv → ∃ t, perform o s = .next t

/-- R175, R196 (D22): the machine refuses exactly two overlapping state-touching operations, and nothing else. -/
def Obligations.OnlyReentryIsRefused : Prop :=
  ∀ (s : State) (r : Refusal), step s = .refused r ↔
    r = .reentrant ∧ ∃ (o₁ o₂ : Operation) (rest : List Request), s.stim = .overlapping o₁ o₂ :: rest ∧
      touchesState o₁ = true ∧ touchesState o₂ = true

/-- R178, R204: from DATA1, DATA2 or ACCUMULATING any status byte brings the machine concerned back to STATUS or IDLE. That
with no request left a step keeps the state is the model's choice about its own queue (DESIGN CHOICE, log 7): its picture
of a block that waits. -/
def Obligations.ParkedBlockWaitsForAStatusByte : Prop :=
  ∀ s : State, (s.stim = [] → step s = .next s) ∧
    ∀ (b : Byte) (i : Instr), isStatus b = true → decode [b] = .ok i → ∃ t, exec i s = .next t ∧
      (s.pstate ≠ .status → t.pstate = .status) ∧ (s.xstate = .accumulating → t.xstate = .idle)

/-! ### The whole machine -/

/-- R24 items 1 to 7 as far as one state can say them (not by which filter item 1's status byte was accepted, nor which
delivery item 7's length belongs to), with the link between the machines behind R149: every step keeps the invariant. -/
def Obligations.EveryStepKeepsTheInvariant : Prop :=
  ∀ s t : State, s.Inv → step s = .next t → t.Inv

/-- R170, R55: no step from a state that meets the invariant faults. -/
def Obligations.NoStepFaults : Prop :=
  ∀ (s : State) (e : Fault), s.Inv → step s ≠ .fault e

/-- R23: a step appends to OUT and never changes an event already emitted, unless it is a RESET, which restarts OUT. -/
def Obligations.EmittedEventsAreNeverChanged : Prop :=
  ∀ s t : State, (∀ r ∈ s.stim.head?, r.resets = false) → step s = .next t → ∃ es, t.out = s.out ++ es

/-- R26, R180 (D27): stepping one instance of a bank steps that one and leaves every other as it is. -/
def Obligations.InstancesDoNotInterfere : Prop :=
  ∀ (bank bank' : List State) (k : Nat), stepInstance bank k = some bank' →
    (∃ s t, bank[k]? = some s ∧ step s = .next t ∧ bank'[k]? = some t) ∧ ∀ j, j ≠ k → bank'[j]? = bank[j]?

/-! ### The application, outside the block -/

/-- R161, R162, R163: the dispatch of a delivered buffer. The word of a set-DAC-value frame keeps the low 12 bits of the
big-endian value; MFR_ID, GATE_OTHER and DACCFG are open parameters (D25, log 27). -/
def Obligations.ApplicationDispatchesOnLengthAndHeader : Prop :=
  ∀ (p : AppParams) (bytes : List Byte),
    (∀ hi lo, bytes = [0b0#1 ++ p.mfrId, 0x01#8, hi, lo] → ∃ w, appAction p bytes = .sendDac w ∧
      w = dacEncode p.dacCfg (BitVec.ofNat 16 (hi.toNat * 256 + lo.toNat))) ∧
    (bytes = [0b0#1 ++ p.mfrId, 0x02#8, 0x00#8] → appAction p bytes = .closeGate) ∧
    (bytes = [0b0#1 ++ p.mfrId, 0x02#8, 0x01#8] → appAction p bytes = .openGate) ∧
    ((∀ hi lo, bytes ≠ [0b0#1 ++ p.mfrId, 0x01#8, hi, lo]) → (∀ g, bytes ≠ [0b0#1 ++ p.mfrId, 0x02#8, g]) →
      appAction p bytes = .ignore)
end

