-- ==== Sys2Proof/Laws/Memory.lean ====
section
/-! SUPPORT. The laws of XBUF as a memory: every operation keeps the canonical form, a read after a write, and the append
at |XBUF| that the accumulator does. -/

namespace Sys2Proof.Machine

theorem Memory.wf_iff {m : Memory} : m.wf = true ↔ m.Pairwise fun x y => x.1 < y.1 := decide_eq_true_iff

theorem Memory.contiguous_iff {m : Memory} : m.contiguous = true ↔ m.map Prod.fst = List.range m.length :=
  decide_eq_true_iff

@[simp] theorem Memory.wf_nil : Memory.wf [] = true := rfl

@[simp] theorem Memory.contiguous_nil : Memory.contiguous [] = true := rfl

/-- A written memory lists the written address and the addresses it listed. -/
theorem Memory.mem_write {m : Memory} {a : Nat} {b : Byte} {c : Host.Cell} (h : c ∈ m.write a b) :
    c = (a, b) ∨ c ∈ m := by
  induction m with
  | nil => simpa [Memory.write] using h
  | cons d rest ih =>
    obtain ⟨k, v⟩ := d
    simp only [Memory.write] at h
    split at h
    · simpa using h
    · split at h
      · rcases List.mem_cons.1 h with h | h
        · exact .inl h
        · exact .inr (List.mem_cons_of_mem _ h)
      · rcases List.mem_cons.1 h with h | h
        · exact .inr (h ▸ List.mem_cons_self)
        · exact (ih h).imp_right (List.mem_cons_of_mem _)

/-- A write keeps the canonical form. -/
theorem Memory.write_wf {m : Memory} (h : m.wf = true) (a : Nat) (b : Byte) : (m.write a b).wf = true := by
  rw [Memory.wf_iff] at h ⊢
  induction m with
  | nil => exact List.pairwise_singleton _ _
  | cons d rest ih =>
    obtain ⟨k, v⟩ := d
    obtain ⟨hk, hr⟩ := List.pairwise_cons.1 h
    simp only [Memory.write]
    split
    · rename_i lt
      refine List.pairwise_cons.2 ⟨fun c hc => ?_, h⟩
      rcases List.mem_cons.1 hc with rfl | hc
      · exact lt
      · exact Nat.lt_trans lt (hk c hc)
    · split
      · rename_i eq
        exact List.pairwise_cons.2 ⟨fun c hc => eq ▸ hk c hc, hr⟩
      · refine List.pairwise_cons.2 ⟨fun c hc => ?_, ih hr⟩
        rcases Memory.mem_write hc with rfl | hc
        · exact by omega
        · exact hk c hc

/-- Reading the written address gives the written byte. -/
theorem Memory.read_write_same (m : Memory) (a : Nat) (b : Byte) : (m.write a b).read a = some b := by
  induction m with
  | nil => simp [Memory.write, Memory.read]
  | cons d rest ih =>
    obtain ⟨k, v⟩ := d
    simp only [Memory.write]
    split
    · simp [Memory.read]
    · split
      · simp [Memory.read]
      · rename_i h
        simp [Memory.read, h, ih]

/-- Reading any other address gives what it gave before. -/
theorem Memory.read_write_other (m : Memory) {a x : Nat} (b : Byte) (hx : x ≠ a) :
    (m.write a b).read x = m.read x := by
  induction m with
  | nil => simp [Memory.write, Memory.read, hx]
  | cons d rest ih =>
    obtain ⟨k, v⟩ := d
    simp only [Memory.write]
    split
    · simp [Memory.read, hx]
    · split
      · rename_i h
        subst h
        simp [Memory.read, hx]
      · simp [Memory.read, ih]

/-- A write above every listed address appends. -/
theorem Memory.write_above {m : Memory} {a : Nat} (b : Byte) (h : ∀ c ∈ m, c.1 < a) : m.write a b = m ++ [(a, b)] := by
  induction m with
  | nil => rfl
  | cons d rest ih =>
    obtain ⟨k, v⟩ := d
    have hk : k < a := h (k, v) List.mem_cons_self
    have := ih fun c hc => h c (List.mem_cons_of_mem _ hc)
    simp [Memory.write, Nat.not_lt.2 hk.le, hk.ne', this]

theorem Memory.lt_length_of_contiguous {m : Memory} (h : m.contiguous = true) : ∀ c ∈ m, c.1 < m.length := by
  intro c hc
  have : c.1 ∈ m.map Prod.fst := List.mem_map_of_mem hc
  rw [Memory.contiguous_iff.1 h] at this
  exact List.mem_range.1 this

/-- The append of R34: in a sequence, the write at |XBUF| adds the byte at the end. -/
theorem Memory.write_length {m : Memory} (h : m.contiguous = true) (b : Byte) :
    m.write m.length b = m ++ [(m.length, b)] :=
  Memory.write_above b (Memory.lt_length_of_contiguous h)

theorem Memory.contiguous_append {m : Memory} (h : m.contiguous = true) (b : Byte) :
    Memory.contiguous (m ++ [(m.length, b)]) = true := by
  have h' := Memory.contiguous_iff.1 h
  apply Memory.contiguous_iff.2
  show List.map Prod.fst (m ++ [(m.length, b)]) = List.range (m ++ [(m.length, b)]).length
  rw [List.map_append, h', List.length_append, List.length_singleton, List.range_succ]
  rfl

/-- A sequence is in canonical form. -/
theorem Memory.wf_of_contiguous {m : Memory} (h : m.contiguous = true) : m.wf = true := by
  have h' := Memory.contiguous_iff.1 h
  have : (m.map Prod.fst).Pairwise (· < ·) := h' ▸ List.pairwise_lt_range
  exact Memory.wf_iff.2 (List.pairwise_map.1 this)

/-- The memory after reset is in canonical form. -/
theorem reset_xbuf_wf : State.reset.xbuf.wf = true := rfl

@[simp] theorem Memory.bytes_nil : Memory.bytes [] = [] := rfl

@[simp] theorem Memory.bytes_append (m n : Memory) : Memory.bytes (m ++ n) = Memory.bytes m ++ Memory.bytes n :=
  List.map_append

@[simp] theorem Memory.bytes_length (m : Memory) : (Memory.bytes m).length = List.length m := List.length_map _

end Sys2Proof.Machine
end

