-- ==== Sys2Proof/Laws/State.lean ====
section
/-! SUPPORT. One lemma per field per update of State, so that no proof unfolds a record update. -/

namespace Sys2Proof.Machine

section
variable (s : State) (p : PState)
@[simp] theorem State.setPState_capacity : (s.setPState p).capacity = s.capacity := rfl
@[simp] theorem State.setPState_pstate : (s.setPState p).pstate = p := rfl
@[simp] theorem State.setPState_msg : (s.setPState p).msg = s.msg := rfl
@[simp] theorem State.setPState_xstate : (s.setPState p).xstate = s.xstate := rfl
@[simp] theorem State.setPState_xbuf : (s.setPState p).xbuf = s.xbuf := rfl
@[simp] theorem State.setPState_filt : (s.setPState p).filt = s.filt := rfl
@[simp] theorem State.setPState_msgCb : (s.setPState p).msgCb = s.msgCb := rfl
@[simp] theorem State.setPState_sxCb : (s.setPState p).sxCb = s.sxCb := rfl
@[simp] theorem State.setPState_out : (s.setPState p).out = s.out := rfl
@[simp] theorem State.setPState_answer : (s.setPState p).answer = s.answer := rfl
@[simp] theorem State.setPState_stim : (s.setPState p).stim = s.stim := rfl
@[simp] theorem State.setPState_freeCtr : (s.setPState p).freeCtr = s.freeCtr := rfl
end

section
variable (s : State) (m : Msg)
@[simp] theorem State.setMsg_capacity : (s.setMsg m).capacity = s.capacity := rfl
@[simp] theorem State.setMsg_pstate : (s.setMsg m).pstate = s.pstate := rfl
@[simp] theorem State.setMsg_msg : (s.setMsg m).msg = m := rfl
@[simp] theorem State.setMsg_xstate : (s.setMsg m).xstate = s.xstate := rfl
@[simp] theorem State.setMsg_xbuf : (s.setMsg m).xbuf = s.xbuf := rfl
@[simp] theorem State.setMsg_filt : (s.setMsg m).filt = s.filt := rfl
@[simp] theorem State.setMsg_msgCb : (s.setMsg m).msgCb = s.msgCb := rfl
@[simp] theorem State.setMsg_sxCb : (s.setMsg m).sxCb = s.sxCb := rfl
@[simp] theorem State.setMsg_out : (s.setMsg m).out = s.out := rfl
@[simp] theorem State.setMsg_answer : (s.setMsg m).answer = s.answer := rfl
@[simp] theorem State.setMsg_stim : (s.setMsg m).stim = s.stim := rfl
@[simp] theorem State.setMsg_freeCtr : (s.setMsg m).freeCtr = s.freeCtr := rfl
end

section
variable (s : State) (x : XState)
@[simp] theorem State.setXState_capacity : (s.setXState x).capacity = s.capacity := rfl
@[simp] theorem State.setXState_pstate : (s.setXState x).pstate = s.pstate := rfl
@[simp] theorem State.setXState_msg : (s.setXState x).msg = s.msg := rfl
@[simp] theorem State.setXState_xstate : (s.setXState x).xstate = x := rfl
@[simp] theorem State.setXState_xbuf : (s.setXState x).xbuf = s.xbuf := rfl
@[simp] theorem State.setXState_filt : (s.setXState x).filt = s.filt := rfl
@[simp] theorem State.setXState_msgCb : (s.setXState x).msgCb = s.msgCb := rfl
@[simp] theorem State.setXState_sxCb : (s.setXState x).sxCb = s.sxCb := rfl
@[simp] theorem State.setXState_out : (s.setXState x).out = s.out := rfl
@[simp] theorem State.setXState_answer : (s.setXState x).answer = s.answer := rfl
@[simp] theorem State.setXState_stim : (s.setXState x).stim = s.stim := rfl
@[simp] theorem State.setXState_freeCtr : (s.setXState x).freeCtr = s.freeCtr := rfl
end

section
variable (s : State) (m : Memory)
@[simp] theorem State.setXbuf_capacity : (s.setXbuf m).capacity = s.capacity := rfl
@[simp] theorem State.setXbuf_pstate : (s.setXbuf m).pstate = s.pstate := rfl
@[simp] theorem State.setXbuf_msg : (s.setXbuf m).msg = s.msg := rfl
@[simp] theorem State.setXbuf_xstate : (s.setXbuf m).xstate = s.xstate := rfl
@[simp] theorem State.setXbuf_xbuf : (s.setXbuf m).xbuf = m := rfl
@[simp] theorem State.setXbuf_filt : (s.setXbuf m).filt = s.filt := rfl
@[simp] theorem State.setXbuf_msgCb : (s.setXbuf m).msgCb = s.msgCb := rfl
@[simp] theorem State.setXbuf_sxCb : (s.setXbuf m).sxCb = s.sxCb := rfl
@[simp] theorem State.setXbuf_out : (s.setXbuf m).out = s.out := rfl
@[simp] theorem State.setXbuf_answer : (s.setXbuf m).answer = s.answer := rfl
@[simp] theorem State.setXbuf_stim : (s.setXbuf m).stim = s.stim := rfl
@[simp] theorem State.setXbuf_freeCtr : (s.setXbuf m).freeCtr = s.freeCtr := rfl
end

section
variable (s : State) (f : Option StatusMask)
@[simp] theorem State.setFilt_capacity : (s.setFilt f).capacity = s.capacity := rfl
@[simp] theorem State.setFilt_pstate : (s.setFilt f).pstate = s.pstate := rfl
@[simp] theorem State.setFilt_msg : (s.setFilt f).msg = s.msg := rfl
@[simp] theorem State.setFilt_xstate : (s.setFilt f).xstate = s.xstate := rfl
@[simp] theorem State.setFilt_xbuf : (s.setFilt f).xbuf = s.xbuf := rfl
@[simp] theorem State.setFilt_filt : (s.setFilt f).filt = f := rfl
@[simp] theorem State.setFilt_msgCb : (s.setFilt f).msgCb = s.msgCb := rfl
@[simp] theorem State.setFilt_sxCb : (s.setFilt f).sxCb = s.sxCb := rfl
@[simp] theorem State.setFilt_out : (s.setFilt f).out = s.out := rfl
@[simp] theorem State.setFilt_answer : (s.setFilt f).answer = s.answer := rfl
@[simp] theorem State.setFilt_stim : (s.setFilt f).stim = s.stim := rfl
@[simp] theorem State.setFilt_freeCtr : (s.setFilt f).freeCtr = s.freeCtr := rfl
end

section
variable (s : State) (h : Option Handler)
@[simp] theorem State.setMsgCb_capacity : (s.setMsgCb h).capacity = s.capacity := rfl
@[simp] theorem State.setMsgCb_pstate : (s.setMsgCb h).pstate = s.pstate := rfl
@[simp] theorem State.setMsgCb_msg : (s.setMsgCb h).msg = s.msg := rfl
@[simp] theorem State.setMsgCb_xstate : (s.setMsgCb h).xstate = s.xstate := rfl
@[simp] theorem State.setMsgCb_xbuf : (s.setMsgCb h).xbuf = s.xbuf := rfl
@[simp] theorem State.setMsgCb_filt : (s.setMsgCb h).filt = s.filt := rfl
@[simp] theorem State.setMsgCb_msgCb : (s.setMsgCb h).msgCb = h := rfl
@[simp] theorem State.setMsgCb_sxCb : (s.setMsgCb h).sxCb = s.sxCb := rfl
@[simp] theorem State.setMsgCb_out : (s.setMsgCb h).out = s.out := rfl
@[simp] theorem State.setMsgCb_answer : (s.setMsgCb h).answer = s.answer := rfl
@[simp] theorem State.setMsgCb_stim : (s.setMsgCb h).stim = s.stim := rfl
@[simp] theorem State.setMsgCb_freeCtr : (s.setMsgCb h).freeCtr = s.freeCtr := rfl
end

section
variable (s : State) (h : Option Handler)
@[simp] theorem State.setSxCb_capacity : (s.setSxCb h).capacity = s.capacity := rfl
@[simp] theorem State.setSxCb_pstate : (s.setSxCb h).pstate = s.pstate := rfl
@[simp] theorem State.setSxCb_msg : (s.setSxCb h).msg = s.msg := rfl
@[simp] theorem State.setSxCb_xstate : (s.setSxCb h).xstate = s.xstate := rfl
@[simp] theorem State.setSxCb_xbuf : (s.setSxCb h).xbuf = s.xbuf := rfl
@[simp] theorem State.setSxCb_filt : (s.setSxCb h).filt = s.filt := rfl
@[simp] theorem State.setSxCb_msgCb : (s.setSxCb h).msgCb = s.msgCb := rfl
@[simp] theorem State.setSxCb_sxCb : (s.setSxCb h).sxCb = h := rfl
@[simp] theorem State.setSxCb_out : (s.setSxCb h).out = s.out := rfl
@[simp] theorem State.setSxCb_answer : (s.setSxCb h).answer = s.answer := rfl
@[simp] theorem State.setSxCb_stim : (s.setSxCb h).stim = s.stim := rfl
@[simp] theorem State.setSxCb_freeCtr : (s.setSxCb h).freeCtr = s.freeCtr := rfl
end

section
variable (s : State) (es : List Event)
@[simp] theorem State.setOut_capacity : (s.setOut es).capacity = s.capacity := rfl
@[simp] theorem State.setOut_pstate : (s.setOut es).pstate = s.pstate := rfl
@[simp] theorem State.setOut_msg : (s.setOut es).msg = s.msg := rfl
@[simp] theorem State.setOut_xstate : (s.setOut es).xstate = s.xstate := rfl
@[simp] theorem State.setOut_xbuf : (s.setOut es).xbuf = s.xbuf := rfl
@[simp] theorem State.setOut_filt : (s.setOut es).filt = s.filt := rfl
@[simp] theorem State.setOut_msgCb : (s.setOut es).msgCb = s.msgCb := rfl
@[simp] theorem State.setOut_sxCb : (s.setOut es).sxCb = s.sxCb := rfl
@[simp] theorem State.setOut_out : (s.setOut es).out = es := rfl
@[simp] theorem State.setOut_answer : (s.setOut es).answer = s.answer := rfl
@[simp] theorem State.setOut_stim : (s.setOut es).stim = s.stim := rfl
@[simp] theorem State.setOut_freeCtr : (s.setOut es).freeCtr = s.freeCtr := rfl
end

section
variable (s : State) (a : Option Answer)
@[simp] theorem State.setAnswer_capacity : (s.setAnswer a).capacity = s.capacity := rfl
@[simp] theorem State.setAnswer_pstate : (s.setAnswer a).pstate = s.pstate := rfl
@[simp] theorem State.setAnswer_msg : (s.setAnswer a).msg = s.msg := rfl
@[simp] theorem State.setAnswer_xstate : (s.setAnswer a).xstate = s.xstate := rfl
@[simp] theorem State.setAnswer_xbuf : (s.setAnswer a).xbuf = s.xbuf := rfl
@[simp] theorem State.setAnswer_filt : (s.setAnswer a).filt = s.filt := rfl
@[simp] theorem State.setAnswer_msgCb : (s.setAnswer a).msgCb = s.msgCb := rfl
@[simp] theorem State.setAnswer_sxCb : (s.setAnswer a).sxCb = s.sxCb := rfl
@[simp] theorem State.setAnswer_out : (s.setAnswer a).out = s.out := rfl
@[simp] theorem State.setAnswer_answer : (s.setAnswer a).answer = a := rfl
@[simp] theorem State.setAnswer_stim : (s.setAnswer a).stim = s.stim := rfl
@[simp] theorem State.setAnswer_freeCtr : (s.setAnswer a).freeCtr = s.freeCtr := rfl
end

section
variable (s : State) (rs : List Request)
@[simp] theorem State.setStim_capacity : (s.setStim rs).capacity = s.capacity := rfl
@[simp] theorem State.setStim_pstate : (s.setStim rs).pstate = s.pstate := rfl
@[simp] theorem State.setStim_msg : (s.setStim rs).msg = s.msg := rfl
@[simp] theorem State.setStim_xstate : (s.setStim rs).xstate = s.xstate := rfl
@[simp] theorem State.setStim_xbuf : (s.setStim rs).xbuf = s.xbuf := rfl
@[simp] theorem State.setStim_filt : (s.setStim rs).filt = s.filt := rfl
@[simp] theorem State.setStim_msgCb : (s.setStim rs).msgCb = s.msgCb := rfl
@[simp] theorem State.setStim_sxCb : (s.setStim rs).sxCb = s.sxCb := rfl
@[simp] theorem State.setStim_out : (s.setStim rs).out = s.out := rfl
@[simp] theorem State.setStim_answer : (s.setStim rs).answer = s.answer := rfl
@[simp] theorem State.setStim_stim : (s.setStim rs).stim = rs := rfl
@[simp] theorem State.setStim_freeCtr : (s.setStim rs).freeCtr = s.freeCtr := rfl
end

section
variable (s : State) (n : Nat)
@[simp] theorem State.setFreeCtr_capacity : (s.setFreeCtr n).capacity = s.capacity := rfl
@[simp] theorem State.setFreeCtr_pstate : (s.setFreeCtr n).pstate = s.pstate := rfl
@[simp] theorem State.setFreeCtr_msg : (s.setFreeCtr n).msg = s.msg := rfl
@[simp] theorem State.setFreeCtr_xstate : (s.setFreeCtr n).xstate = s.xstate := rfl
@[simp] theorem State.setFreeCtr_xbuf : (s.setFreeCtr n).xbuf = s.xbuf := rfl
@[simp] theorem State.setFreeCtr_filt : (s.setFreeCtr n).filt = s.filt := rfl
@[simp] theorem State.setFreeCtr_msgCb : (s.setFreeCtr n).msgCb = s.msgCb := rfl
@[simp] theorem State.setFreeCtr_sxCb : (s.setFreeCtr n).sxCb = s.sxCb := rfl
@[simp] theorem State.setFreeCtr_out : (s.setFreeCtr n).out = s.out := rfl
@[simp] theorem State.setFreeCtr_answer : (s.setFreeCtr n).answer = s.answer := rfl
@[simp] theorem State.setFreeCtr_stim : (s.setFreeCtr n).stim = s.stim := rfl
@[simp] theorem State.setFreeCtr_freeCtr : (s.setFreeCtr n).freeCtr = n := rfl
end

end Sys2Proof.Machine
end

