-- ==== Sys2Proof/Laws/Words.lean ====
section
/-! SUPPORT. What the classifier answers for the byte that each class's fields stand for. -/

namespace Sys2Proof.Machine

theorem isData_eq_not_isStatus (b : Byte) : isData b = !isStatus b := rfl

theorem isStatus_iff_le (b : Byte) : isStatus b = true ↔ 128 ≤ b.toNat := by
  revert b
  decide

@[simp] theorem isStatus_dataByte (payload : BitVec 7) : isStatus (dataByte payload) = false := by
  revert payload
  decide

@[simp] theorem isStatus_statusByte (cmd3 : BitVec 3) (low : BitVec 4) : isStatus (statusByte cmd3 low) = true := by
  revert cmd3 low
  decide

@[simp] theorem isStatus_systemByte (sub : BitVec 4) : isStatus (systemByte sub) = true :=
  isStatus_statusByte _ _

/-- `IS_COMMAND(b, SysExStart)` is true for 0xF0 only (R75). -/
theorem isCommand_sysExStart (b : Byte) : isCommand b .sysExStart = decide (b = 0xF0#8) := by
  revert b
  decide

/-- `IS_COMMAND(b, SysExEnd)` is true for 0xF7 only (R75). -/
theorem isCommand_sysExEnd (b : Byte) : isCommand b .sysExEnd = decide (b = 0xF7#8) := by
  revert b
  decide

/-! ### Words as numbers -/

/-- Concatenation weights the left part by a power of two. -/
theorem toNat_append_sum {m n : Nat} (x : BitVec m) (y : BitVec n) :
    (x ++ y).toNat = x.toNat * 2 ^ n + y.toNat := by
  rw [BitVec.toNat_append, ← Nat.shiftLeft_add_eq_or_of_lt y.isLt, Nat.shiftLeft_eq]

theorem append_bytes_toNat (hi lo : Byte) : (hi ++ lo : Word).toNat = hi.toNat * 256 + lo.toNat :=
  toNat_append_sum hi lo

/-- A bit as arithmetic on the number. -/
theorem getLsbD_eq_decide (w : Word) (n : Nat) : w.getLsbD n = decide (w.toNat / 2 ^ n % 2 = 1) := by
  rw [← BitVec.testBit_toNat, Nat.testBit_eq_decide_div_mod_eq]

/-- Format W as a number (R50). -/
theorem packWord_toNat (ch buf gain shdn : BitVec 1) (value : BitVec 12) :
    (packWord ch buf gain shdn value).toNat =
      ch.toNat * 32768 + buf.toNat * 16384 + gain.toNat * 8192 + shdn.toNat * 4096 + value.toNat := by
  have h1 : (shdn ++ value).toNat = shdn.toNat * 4096 + value.toNat := toNat_append_sum _ _
  have h2 : (gain ++ (shdn ++ value)).toNat = gain.toNat * 8192 + (shdn ++ value).toNat := toNat_append_sum _ _
  have h3 : (buf ++ (gain ++ (shdn ++ value))).toNat = buf.toNat * 16384 + (gain ++ (shdn ++ value)).toNat :=
    toNat_append_sum _ _
  have h4 : (packWord ch buf gain shdn value).toNat = ch.toNat * 32768 + (buf ++ (gain ++ (shdn ++ value))).toNat :=
    toNat_append_sum _ _
  rw [h4, h3, h2, h1]
  ac_rfl

/-- The two bytes of a word, joined again. -/
theorem wireBytes_append (w : Word) : w.extractLsb' 8 8 ++ w.extractLsb' 0 8 = w := by
  apply BitVec.eq_of_toNat_eq
  rw [append_bytes_toNat]
  simp only [BitVec.extractLsb'_toNat, Nat.shiftRight_eq_div_pow]
  have := w.isLt
  omega

end Sys2Proof.Machine
end

