-- ==== Sys2Proof/Laws/Ops.lean ====
section
/-! SUPPORT. What each shared operation can do, said once: the deliveries, the write of XBUF, one step of the core
parser and one step of the accumulator, with their frames. -/

namespace Sys2Proof.Machine

/-! ### Sequencing -/

@[simp] theorem andThen_next (s : State) (f : State → Result) : andThen (.next s) f = f s := rfl
@[simp] theorem andThen_fault (e : Fault) (f : State → Result) : andThen (.fault e) f = .fault e := rfl
@[simp] theorem andThen_refused (e : Refusal) (f : State → Result) : andThen (.refused e) f = .refused e := rfl

/-- If `andThen` answers a next state, both parts did. -/
theorem andThen_eq_next {r : Result} {f : State → Result} {t : State} (h : andThen r f = .next t) :
    ∃ s, r = .next s ∧ f s = .next t := by
  cases r with
  | next s => exact ⟨s, rfl, h⟩
  | fault e => cases h
  | refused e => cases h

theorem reply_eq (a : Answer) (s : State) : reply a s = .next (s.setAnswer (some a)) := rfl

/-! ### Events -/

@[simp] theorem emit_out (e : Event) (s : State) : (emit e s).out = s.out ++ [e] := rfl

/-- A delivery of a message changes OUT alone, and appends one event if a consumer is registered. -/
theorem deliverMsg_eq (s : State) :
    deliverMsg s = s.setOut (s.out ++
      (s.msgCb.map fun h => Event.msgReady h s.msg.status s.msg.data1 s.msg.data2).toList) := by
  unfold deliverMsg
  cases h : s.msgCb <;> simp [emit, State.setOut]

/-- A delivery of the buffer changes OUT alone, and appends one event if a consumer is registered. -/
theorem deliverSysex_eq (s : State) :
    deliverSysex s = s.setOut (s.out ++ (s.sxCb.map fun h => Event.sysExReady h s.xbuf.bytes).toList) := by
  unfold deliverSysex
  cases h : s.sxCb <;> simp [emit, State.setOut]

/-! ### XBUF -/

/-- A write inside 0..C-1 answers the state with that byte written; outside it faults. -/
theorem writeXbuf_inside {i : Nat} {b : Byte} {s : State} (h : i < s.capacity) :
    writeXbuf i b s = .next (s.setXbuf (s.xbuf.write i b)) := if_pos h

theorem writeXbuf_outside {i : Nat} {b : Byte} {s : State} (h : s.capacity ≤ i) :
    writeXbuf i b s = .fault (.xbufIndex i) := if_neg (Nat.not_lt.2 h)

theorem closeFrame_eq (s : State) : closeFrame s = (s.setXbuf []).setXState .idle := rfl

/-! ### The core parser -/

section
variable (b : Byte) (s : State)

/-- What the step of the core parser can do, row by row (R91-R97). -/
theorem coreStep_cases :
    (s.pstate = .status ∧ (isStatus b && filterAccepts s.filt b) = false ∧ coreStep b s = s) ∨
    (s.pstate = .status ∧ (isStatus b && filterAccepts s.filt b) = true ∧
      coreStep b s = (s.setMsg { s.msg with status := b }).setPState .data1) ∨
    (s.pstate = .data1 ∧ isData b = true ∧ coreStep b s = (s.setMsg { s.msg with data1 := b }).setPState .data2) ∨
    (s.pstate ≠ .status ∧ isData b = false ∧ coreStep b s = s.setPState .status) ∨
    (s.pstate = .data2 ∧ isData b = true ∧
      coreStep b s = ((s.setMsg { s.msg with data2 := b }).setPState .status).setOut (s.out ++
        (s.msgCb.map fun h => Event.msgReady h s.msg.status s.msg.data1 b).toList)) := by
  cases hp : s.pstate with
  | status =>
    cases hc : isStatus b && filterAccepts s.filt b <;> simp [coreStep, hp, hc]
  | data1 => cases hd : isData b <;> simp [coreStep, hp, hd]
  | data2 => cases hd : isData b <;> simp [coreStep, hp, hd, deliverMsg_eq]

@[simp] theorem coreStep_capacity : (coreStep b s).capacity = s.capacity := by
  obtain ⟨-, -, h⟩ | ⟨-, -, h⟩ | ⟨-, -, h⟩ | ⟨-, -, h⟩ | ⟨-, -, h⟩ := coreStep_cases b s <;> rw [h] <;> rfl
@[simp] theorem coreStep_xstate : (coreStep b s).xstate = s.xstate := by
  obtain ⟨-, -, h⟩ | ⟨-, -, h⟩ | ⟨-, -, h⟩ | ⟨-, -, h⟩ | ⟨-, -, h⟩ := coreStep_cases b s <;> rw [h] <;> rfl
@[simp] theorem coreStep_xbuf : (coreStep b s).xbuf = s.xbuf := by
  obtain ⟨-, -, h⟩ | ⟨-, -, h⟩ | ⟨-, -, h⟩ | ⟨-, -, h⟩ | ⟨-, -, h⟩ := coreStep_cases b s <;> rw [h] <;> rfl
@[simp] theorem coreStep_filt : (coreStep b s).filt = s.filt := by
  obtain ⟨-, -, h⟩ | ⟨-, -, h⟩ | ⟨-, -, h⟩ | ⟨-, -, h⟩ | ⟨-, -, h⟩ := coreStep_cases b s <;> rw [h] <;> rfl
@[simp] theorem coreStep_msgCb : (coreStep b s).msgCb = s.msgCb := by
  obtain ⟨-, -, h⟩ | ⟨-, -, h⟩ | ⟨-, -, h⟩ | ⟨-, -, h⟩ | ⟨-, -, h⟩ := coreStep_cases b s <;> rw [h] <;> rfl
@[simp] theorem coreStep_sxCb : (coreStep b s).sxCb = s.sxCb := by
  obtain ⟨-, -, h⟩ | ⟨-, -, h⟩ | ⟨-, -, h⟩ | ⟨-, -, h⟩ | ⟨-, -, h⟩ := coreStep_cases b s <;> rw [h] <;> rfl
@[simp] theorem coreStep_answer : (coreStep b s).answer = s.answer := by
  obtain ⟨-, -, h⟩ | ⟨-, -, h⟩ | ⟨-, -, h⟩ | ⟨-, -, h⟩ | ⟨-, -, h⟩ := coreStep_cases b s <;> rw [h] <;> rfl
@[simp] theorem coreStep_stim : (coreStep b s).stim = s.stim := by
  obtain ⟨-, -, h⟩ | ⟨-, -, h⟩ | ⟨-, -, h⟩ | ⟨-, -, h⟩ | ⟨-, -, h⟩ := coreStep_cases b s <;> rw [h] <;> rfl
@[simp] theorem coreStep_freeCtr : (coreStep b s).freeCtr = s.freeCtr := by
  obtain ⟨-, -, h⟩ | ⟨-, -, h⟩ | ⟨-, -, h⟩ | ⟨-, -, h⟩ | ⟨-, -, h⟩ := coreStep_cases b s <;> rw [h] <;> rfl

end

/-! ### The accumulator -/

section
variable {b : Byte} {s : State}

theorem sysexStep_idle_start (hx : s.xstate = .idle) :
    sysexStep 0xF0#8 s = .next ((s.setXbuf []).setXState .accumulating) := by
  simp [sysexStep, hx, isCommand_sysExStart, clearXbuf]

theorem sysexStep_idle_other (hx : s.xstate = .idle) (hb : b ≠ 0xF0#8) : sysexStep b s = .next s := by
  simp [sysexStep, hx, isCommand_sysExStart, hb]

/-- The append below the last place (R113). -/
theorem sysexStep_append (hx : s.xstate = .accumulating) (hd : isData b = true) (hm : s.xbuf.contiguous = true)
    (hl : s.xlen + 1 < s.capacity) :
    sysexStep b s = .next (s.setXbuf (s.xbuf ++ [(s.xlen, b)])) := by
  have hlt : s.xlen < s.capacity := by omega
  have hne : ¬ s.xlen + 1 = s.capacity := by omega
  have hw : s.xbuf.write s.xlen b = s.xbuf ++ [(s.xlen, b)] := Memory.write_length hm b
  have hf : bufferFull (s.setXbuf (s.xbuf ++ [(s.xlen, b)])) = false := by
    simpa [bufferFull, State.xlen] using hne
  simp [sysexStep, hx, hd, writeXbuf_inside hlt, hw, closeIfFull, hf]

/-- The append of the C-th byte: forced delivery (R113). -/
theorem sysexStep_full (hx : s.xstate = .accumulating) (hd : isData b = true) (hm : s.xbuf.contiguous = true)
    (hl : s.xlen + 1 = s.capacity) :
    sysexStep b s = .next (((s.setXbuf []).setXState .idle).setOut (s.out ++
      (s.sxCb.map fun h => Event.sysExReady h (s.xbuf.bytes ++ [b])).toList)) := by
  have hlt : s.xlen < s.capacity := by omega
  have hw : s.xbuf.write s.xlen b = s.xbuf ++ [(s.xlen, b)] := Memory.write_length hm b
  have hf : bufferFull (s.setXbuf (s.xbuf ++ [(s.xlen, b)])) = true := by
    simpa [bufferFull, State.xlen] using hl
  have hb : Memory.bytes [(s.xlen, b)] = [b] := rfl
  simp only [sysexStep, hx, hd, if_true, writeXbuf_inside hlt, hw, andThen_next, closeIfFull, hf, deliverSysex_eq,
    closeFrame_eq]
  simp [Memory.bytes, State.setXbuf, State.setXState, State.setOut]

/-- The terminator delivers (R114). -/
theorem sysexStep_end (hx : s.xstate = .accumulating) :
    sysexStep 0xF7#8 s = .next (((s.setXbuf []).setXState .idle).setOut (s.out ++
      (s.sxCb.map fun h => Event.sysExReady h s.xbuf.bytes).toList)) := by
  have hd : isData 0xF7#8 = false := rfl
  simp only [sysexStep, hx, hd, isCommand_sysExEnd, deliverSysex_eq, closeFrame_eq, decide_true, if_true]
  rfl

/-- Any other status byte aborts (R115, R116). -/
theorem sysexStep_abort (hx : s.xstate = .accumulating) (hs : isData b = false) (hb : b ≠ 0xF7#8) :
    sysexStep b s = .next ((s.setXbuf []).setXState .idle) := by
  simp [sysexStep, hx, hs, isCommand_sysExEnd, hb, closeFrame_eq]

/-- What the step of the accumulator can do if it answers a next state: nothing, open a frame, append below the
capacity, append the last byte and deliver, deliver, or abort. -/
theorem sysexStep_cases {t : State} (h : sysexStep b s = .next t) :
    (s.xstate = .idle ∧ b ≠ 0xF0#8 ∧ t = s) ∨
    (s.xstate = .idle ∧ b = 0xF0#8 ∧ t = (s.setXbuf []).setXState .accumulating) ∨
    (s.xstate = .accumulating ∧ isData b = true ∧ s.xlen < s.capacity ∧
      t = closeIfFull (s.setXbuf (s.xbuf.write s.xlen b))) ∨
    (s.xstate = .accumulating ∧ b = 0xF7#8 ∧ t = closeFrame (deliverSysex s)) ∨
    (s.xstate = .accumulating ∧ isData b = false ∧ b ≠ 0xF7#8 ∧ t = closeFrame s) := by
  cases hx : s.xstate with
  | idle =>
    by_cases hb : b = 0xF0#8
    · subst hb
      rw [sysexStep_idle_start hx] at h
      cases h
      simp
    · rw [sysexStep_idle_other hx hb] at h
      cases h
      simp [hb]
  | accumulating =>
    cases hd : isData b with
    | true =>
      by_cases hlt : s.xlen < s.capacity
      · simp only [sysexStep, hx, hd, if_true, writeXbuf_inside hlt, andThen_next] at h
        cases h
        simp [hlt]
      · simp [sysexStep, hx, hd, writeXbuf_outside (Nat.not_lt.1 hlt)] at h
    | false =>
      by_cases hb : b = 0xF7#8
      · simp only [sysexStep, hx, isCommand_sysExEnd, hb, decide_true, if_true] at h
        cases h
        simp [hb]
      · rw [sysexStep_abort hx hd hb] at h
        cases h
        simp [hb, closeFrame_eq]

/-- The accumulator writes XSTATE, XBUF and OUT alone. -/
theorem sysexStep_frame {t : State} (h : sysexStep b s = .next t) :
    t.capacity = s.capacity ∧ t.pstate = s.pstate ∧ t.msg = s.msg ∧ t.filt = s.filt ∧ t.msgCb = s.msgCb ∧
      t.sxCb = s.sxCb ∧ t.answer = s.answer ∧ t.stim = s.stim ∧ t.freeCtr = s.freeCtr := by
  obtain ⟨-, -, rfl⟩ | ⟨-, -, rfl⟩ | ⟨-, -, -, rfl⟩ | ⟨-, -, rfl⟩ | ⟨-, -, -, rfl⟩ := sysexStep_cases h
  · simp
  · simp
  · unfold closeIfFull
    split <;> simp [closeFrame_eq, deliverSysex_eq]
  · simp [closeFrame_eq, deliverSysex_eq]
  · simp [closeFrame_eq]

end

end Sys2Proof.Machine
end

