-- ==== Sys2Proof/Laws/Feed.lean ====
section
/-! SUPPORT. The decoder, FEED and the step, said once: every input byte reaches FEED as itself, and what a step can do. -/

namespace Sys2Proof.Machine

/-- The byte an instruction's meaning feeds; none for DAC_WORD. -/
def fedByte : Instr → Option Byte
  | .data payload => some (dataByte payload)
  | .noteOff channel => some (statusByte 0b000#3 channel)
  | .noteOn channel => some (statusByte 0b001#3 channel)
  | .polyPressure channel => some (statusByte 0b010#3 channel)
  | .controlChange channel => some (statusByte 0b011#3 channel)
  | .programChange channel => some (statusByte 0b100#3 channel)
  | .channelPressure channel => some (statusByte 0b101#3 channel)
  | .pitchBend channel => some (statusByte 0b110#3 channel)
  | .sysexStart => some (systemByte 0x0#4)
  | .sysexEnd => some (systemByte 0x7#4)
  | .otherF1 => some (systemByte 0x1#4)
  | .otherF2F3 sub => some (systemByte (0b001#3 ++ sub))
  | .otherF4F5 sub => some (systemByte (0b010#3 ++ sub))
  | .otherF6 => some (systemByte 0x6#4)
  | .otherF8FF sub => some (systemByte (0b1#1 ++ sub))
  | .dacWord _ _ _ _ _ => none

theorem exec_eq_feed {i : Instr} {b : Byte} (h : fedByte i = some b) (s : State) : exec i s = feed b s := by
  cases i <;> simp only [fedByte, Option.some.injEq, reduceCtorEq] at h <;> subst h <;> rfl

theorem fedByte_decodeByte (b : Byte) : fedByte (decodeByte b) = some b := by
  revert b
  decide

/-- No bit of an input byte is lost on its way to FEED. -/
theorem exec_decodeByte (b : Byte) (s : State) : exec (decodeByte b) s = feed b s :=
  exec_eq_feed (fedByte_decodeByte b) s

theorem decode_single {b : Byte} {i : Instr} (h : decode [b] = .ok i) : i = decodeByte b := by
  simpa [decode] using h.symm

theorem runBytes_single (b : Byte) (s : State) : runBytes [b] s = feed b s := exec_decodeByte b s

theorem runBytes_wireBytes (w : Word) (s : State) :
    runBytes (wireBytes w) s = exec (decodeWord (w.extractLsb' 8 8 ++ w.extractLsb' 0 8)) s := rfl

/-- A status byte is always taken; a data byte needs a buffer with room. -/
theorem feed_answers {b : Byte} {s : State} (h : s.XbufInv) : ∃ t, feed b s = .next t := by
  obtain ⟨-, -, -, hlen, -⟩ := h
  unfold feed sysexStep
  simp only [coreStep_xstate]
  cases hx : s.xstate with
  | idle =>
    simp only
    split <;> exact ⟨_, rfl⟩
  | accumulating =>
    have hl : (coreStep b s).xlen < (coreStep b s).capacity := by
      have := hlen hx
      simpa [State.xlen] using this
    simp only [writeXbuf_inside hl, andThen_next]
    split
    · exact ⟨_, rfl⟩
    · split <;> exact ⟨_, rfl⟩

/-- FEED writes PSTATE, MSG, XSTATE, XBUF and OUT alone. -/
theorem feed_frame {b : Byte} {s t : State} (h : feed b s = .next t) : FeedFrame s t := by
  obtain ⟨h1, -, -, h2, h3, h4, h5, h6, h7⟩ := sysexStep_frame h
  simp_all [FeedFrame]

/-! ### FEED -/

theorem accepts_iff (s : State) (b : Byte) : s.accepts b ↔ filterAccepts s.filt b = true := by
  unfold State.accepts filterAccepts
  cases s.filt <;> simp

theorem rejects_iff (s : State) (b : Byte) : s.rejects b ↔ filterAccepts s.filt b = false := by
  unfold State.rejects filterAccepts
  cases s.filt <;> simp

/-- What the core parser does with a status byte (R92-R94, R96). -/
theorem coreStep_status {b : Byte} (s : State) (h : isStatus b = true) : CoreTakesStatus b s (coreStep b s) := by
  have hd : isData b = false := by simp [isData_eq_not_isStatus, h]
  unfold CoreTakesStatus
  rw [accepts_iff, rejects_iff]
  refine ⟨fun hp ha => ?_, fun hp ha => ?_, fun hp => ?_⟩
  · simp [coreStep, hp, h, ha]
  · simp [coreStep, hp, h, ha]
  · cases hq : s.pstate <;> simp_all [coreStep]

/-- What the core parser does with a data byte (R91, R95, R97). -/
theorem coreStep_data {b : Byte} (s : State) (h : isData b = true) :
    (s.pstate = .status → (coreStep b s).pstate = .status ∧ (coreStep b s).msg = s.msg) ∧
    (s.pstate = .data1 → (coreStep b s).pstate = .data2 ∧ (coreStep b s).msg = ⟨s.msg.status, b, s.msg.data2⟩) ∧
    (s.pstate = .data2 → (coreStep b s).pstate = .status ∧ (coreStep b s).msg = ⟨s.msg.status, s.msg.data1, b⟩) := by
  have hd : isStatus b = false := by simpa [isData_eq_not_isStatus] using h
  refine ⟨?_, ?_, ?_⟩ <;> intro hp <;> simp [coreStep, hp, h, hd, deliverMsg_eq]

/-- The event the core parser emits: one, at the second data byte (R97, R100). -/
theorem coreStep_out (b : Byte) (s : State) :
    (coreStep b s).out = s.out ++ (if s.pstate = .data2 ∧ isData b = true then msgEvents s b else []) := by
  obtain ⟨hp, hc, h⟩ | ⟨hp, hc, h⟩ | ⟨hp, hc, h⟩ | ⟨hp, hc, h⟩ | ⟨hp, hc, h⟩ := coreStep_cases b s <;> rw [h] <;>
    simp [hp, hc, msgEvents]

/-- The whole of FEED: it answers a next state if the buffer is in order or the byte is a status byte; (PSTATE, MSG) is
the core parser's; OUT has the core parser's event and then the accumulator's; (XSTATE, XBUF) row by row. -/
theorem feed_result {b : Byte} {s : State} (hinv : s.XbufInv ∨ isData b = false) :
    ∃ t, feed b s = .next t ∧ FeedFrame s t ∧ t.pstate = (coreStep b s).pstate ∧ t.msg = (coreStep b s).msg ∧
      t.out = (coreStep b s).out ++ (if s.xstate = .accumulating ∧ b = 0xF7#8 then sysexEvents s s.xbuf.bytes
        else if s.xstate = .accumulating ∧ isData b = true ∧ s.xlen + 1 = s.capacity then
          sysexEvents s (s.xbuf.bytes ++ [b]) else []) ∧
      (s.xstate = .idle → b ≠ 0xF0#8 → t.xstate = .idle ∧ t.xbuf = s.xbuf) ∧
      (s.xstate = .idle → b = 0xF0#8 → t.xstate = .accumulating ∧ t.xbuf = []) ∧
      (s.xstate = .accumulating → isData b = false → t.xstate = .idle ∧ t.xbuf = []) ∧
      (s.xstate = .accumulating → isData b = true → s.xlen + 1 = s.capacity → t.xstate = .idle ∧ t.xbuf = []) ∧
      (s.xstate = .accumulating → isData b = true → s.xlen + 1 < s.capacity →
        t.xstate = .accumulating ∧ t.xbuf = s.xbuf ++ [(s.xlen, b)]) := by
  have hx' := coreStep_xstate b s
  cases hx : s.xstate with
  | idle =>
    rw [hx] at hx'
    by_cases hb : b = 0xF0#8
    · subst hb
      refine ⟨_, sysexStep_idle_start hx', feed_frame (sysexStep_idle_start hx'), ?_⟩
      simp
    · refine ⟨_, sysexStep_idle_other hx' hb, feed_frame (sysexStep_idle_other hx' hb), ?_⟩
      simp [hb, hx]
  | accumulating =>
    rw [hx] at hx'
    cases hd : isData b with
    | false =>
      by_cases hb : b = 0xF7#8
      · subst hb
        refine ⟨_, sysexStep_end hx', feed_frame (sysexStep_end hx'), ?_⟩
        simp [sysexEvents]
      · refine ⟨_, sysexStep_abort hx' hd hb, feed_frame (sysexStep_abort hx' hd hb), ?_⟩
        simp [hb]
    | true =>
      obtain ⟨h1, hm, -, hl, -⟩ := hinv.resolve_right (by simp [hd])
      have hb7 : b ≠ 0xF7#8 := by rintro rfl; revert hd; decide
      have hlen := hl hx
      by_cases he : s.xlen + 1 = s.capacity
      · have hh := sysexStep_full hx' hd (by simpa using hm) (by simpa [State.xlen] using he)
        refine ⟨_, hh, feed_frame hh, ?_⟩
        simp [he, sysexEvents, hb7]
      · have : s.xlen + 1 < s.capacity := by unfold State.xlen at *; omega
        have hh := sysexStep_append hx' hd (by simpa using hm) (by simpa [State.xlen] using this)
        refine ⟨_, hh, feed_frame hh, ?_⟩
        unfold State.xlen at he
        simp [he, hb7, hx, State.xlen]

/-! ### The step -/

theorem step_nil {s : State} (h : s.stim = []) : step s = .next s := by
  simp [step, h]

theorem step_cons {s : State} {r : Request} {rest : List Request} (h : s.stim = r :: rest) :
    step s = serve r (s.setStim rest) := by
  simp [step, h]

@[simp] theorem steps_zero (s : State) : steps 0 s = .next s := rfl

/-- One step, then the others. -/
theorem steps_succ (n : Nat) (s : State) : steps (n + 1) s = andThen (step s) (steps n) := rfl

/-- One step of the host's run, then the others. -/
theorem run_succ (M : Host.Core) (n : Nat) (s : M.State)
    (f : Host.Outcome M.State M.Fault M.Refusal → Host.Outcome M.State M.Fault M.Refusal)
    (h1 : ∀ t, f (.next t) = M.run n t) (h2 : ∀ e, f (.fault e) = .fault e) (h3 : ∀ e, f (.refused e) = .refused e) :
    M.run (n + 1) s = f (M.step s) := by
  rw [Host.Core.run]
  cases M.step s <;> simp [h1, h2, h3]

/-- `steps` is the host's run of the core. -/
theorem steps_eq_run (n : Nat) (s : State) : steps n s = Sys2Proof.core.run n s := by
  induction n generalizing s with
  | zero => rfl
  | succ n ih =>
    exact (run_succ Sys2Proof.core n s (fun r => andThen r (steps n)) ih (fun _ => rfl) (fun _ => rfl)).symm

/-- The first byte of a FEEDS, then the others. -/
theorem steps_feeds_cons (s : State) (b : Byte) (bs : List Byte) :
    steps (bs.length + 1) (s.withFeeds (b :: bs)) = andThen (feed b (s.withFeeds bs)) (steps bs.length) := by
  rw [steps_succ, step_cons (r := .one (.feed b)) (rest := feeds bs) rfl]
  show andThen (runBytes [b] _) _ = _
  rw [runBytes_single]
  rfl

/-- A state whose requests are FEEDS `bs` is itself with FEEDS `bs`. -/
theorem withFeeds_of_stim {t : State} {bs : List Byte} (h : t.stim = feeds bs) : t = t.withFeeds bs := by
  cases t
  simp_all [State.withFeeds, State.setStim]

end Sys2Proof.Machine
end

