-- ==== Sys2Proof/Laws/PerInstr.lean ====
section
/-! SUPPORT. The per-instruction family: the encoding of every instruction fits its row of the opcode table. -/

namespace Sys2Proof.Laws.FitsRow

/-- A byte row's encoding is one byte that the row's mask and pattern cover; DAC_WORD's is two bytes. -/
def Statement (i : Instr) : Prop :=
  (∃ b, ∃ r ∈ byteRows, encode i = [b] ∧ r.mnemonic = i.mnemonic ∧ r.covers b = true) ∨
    (i.mnemonic = "DAC_WORD" ∧ (encode i).length = 2)

theorem data (payload : BitVec 7) : Statement (.data payload) :=
  .inl ⟨_, ⟨"DATA", 0x00#8, 0x80#8⟩, by decide, rfl, rfl, by revert payload; decide⟩
theorem noteOff (channel : BitVec 4) : Statement (.noteOff channel) :=
  .inl ⟨_, ⟨"NOTE_OFF", 0x80#8, 0xF0#8⟩, by decide, rfl, rfl, by revert channel; decide⟩
theorem noteOn (channel : BitVec 4) : Statement (.noteOn channel) :=
  .inl ⟨_, ⟨"NOTE_ON", 0x90#8, 0xF0#8⟩, by decide, rfl, rfl, by revert channel; decide⟩
theorem polyPressure (channel : BitVec 4) : Statement (.polyPressure channel) :=
  .inl ⟨_, ⟨"POLY_PRESSURE", 0xA0#8, 0xF0#8⟩, by decide, rfl, rfl, by revert channel; decide⟩
theorem controlChange (channel : BitVec 4) : Statement (.controlChange channel) :=
  .inl ⟨_, ⟨"CONTROL_CHANGE", 0xB0#8, 0xF0#8⟩, by decide, rfl, rfl, by revert channel; decide⟩
theorem programChange (channel : BitVec 4) : Statement (.programChange channel) :=
  .inl ⟨_, ⟨"PROGRAM_CHANGE", 0xC0#8, 0xF0#8⟩, by decide, rfl, rfl, by revert channel; decide⟩
theorem channelPressure (channel : BitVec 4) : Statement (.channelPressure channel) :=
  .inl ⟨_, ⟨"CHANNEL_PRESSURE", 0xD0#8, 0xF0#8⟩, by decide, rfl, rfl, by revert channel; decide⟩
theorem pitchBend (channel : BitVec 4) : Statement (.pitchBend channel) :=
  .inl ⟨_, ⟨"PITCH_BEND", 0xE0#8, 0xF0#8⟩, by decide, rfl, rfl, by revert channel; decide⟩
theorem sysexStart : Statement .sysexStart :=
  .inl ⟨_, ⟨"SYSEX_START", 0xF0#8, 0xFF#8⟩, by decide, rfl, rfl, by decide⟩
theorem sysexEnd : Statement .sysexEnd :=
  .inl ⟨_, ⟨"SYSEX_END", 0xF7#8, 0xFF#8⟩, by decide, rfl, rfl, by decide⟩
theorem otherF1 : Statement .otherF1 :=
  .inl ⟨_, ⟨"OTHER_F1", 0xF1#8, 0xFF#8⟩, by decide, rfl, rfl, by decide⟩
theorem otherF2F3 (sub : BitVec 1) : Statement (.otherF2F3 sub) :=
  .inl ⟨_, ⟨"OTHER_F2_F3", 0xF2#8, 0xFE#8⟩, by decide, rfl, rfl, by revert sub; decide⟩
theorem otherF4F5 (sub : BitVec 1) : Statement (.otherF4F5 sub) :=
  .inl ⟨_, ⟨"OTHER_F4_F5", 0xF4#8, 0xFE#8⟩, by decide, rfl, rfl, by revert sub; decide⟩
theorem otherF6 : Statement .otherF6 :=
  .inl ⟨_, ⟨"OTHER_F6", 0xF6#8, 0xFF#8⟩, by decide, rfl, rfl, by decide⟩
theorem otherF8FF (sub : BitVec 3) : Statement (.otherF8FF sub) :=
  .inl ⟨_, ⟨"OTHER_F8_FF", 0xF8#8, 0xF8#8⟩, by decide, rfl, rfl, by revert sub; decide⟩
theorem dacWord (channel : ChannelSelect) (buf : BufferEnable) (gain : Gain) (shdn : Shutdown) (value : Word) :
    Statement (.dacWord channel buf gain shdn value) := .inr ⟨rfl, rfl⟩

end Sys2Proof.Laws.FitsRow
end

