-- ==== Sys2Proof/Tests/Slice0.lean ====
section
/-! SUPPORT. The model's own tests, and for each obligation with hypotheses a concrete witness that meets them. Expected
results come from 95_test_vectors.md (the vector is named) or from the encoding patterns of 30_encoding.md. -/

namespace Sys2Proof.Tests

open Sys2Proof.Machine

/-! ### Helpers -/

/-- A memory that holds these bytes from index 0 on. -/
def seqMem (bytes : List Byte) : Memory := (List.range bytes.length).zip bytes

/-- A state with capacity `c`, both consumers registered (1 for messages, 2 for buffers) and no filter. -/
def blank (c : Nat) : State :=
  { State.reset with capacity := c, msgCb := some ⟨1⟩, sxCb := some ⟨2⟩ }

/-- `blank` with the core parser in `p` and these bytes in the slot. -/
def inCore (p : PState) (status data1 data2 : Byte) : State :=
  { blank 8 with pstate := p, msg := ⟨status, data1, data2⟩ }

/-- `blank` accumulating, with these bytes in the buffer. -/
def inFrame (c : Nat) (bytes : List Byte) : State :=
  { blank c with xstate := .accumulating, xbuf := seqMem bytes }

/-- The filters of 95_test_vectors.md as masks: bit i is the answer for 0x80 + i. -/
def maskTrue : StatusMask := BitVec.allOnes 128
def maskFalse : StatusMask := 0#128
def maskNoSys : StatusMask := 0x0000FFFFFFFFFFFFFFFFFFFFFFFFFFFF#128

def coreView (r : Result) : Option (PState × Msg) := (nextOf r).map fun t => (t.pstate, t.msg)
def sysexView (r : Result) : Option (XState × Memory) := (nextOf r).map fun t => (t.xstate, t.xbuf)
def eventsOf (r : Result) : Option (List Event) := (nextOf r).map fun t => t.out
def answerOf (r : Result) : Option (Option Answer) := (nextOf r).map fun t => t.answer

/-! ### Well-formedness -/

theorem test_wf_refuses_wide_value : (Instr.dacWord .selector0 .off .x2 .shutdown 0x1000#16).wellFormed = false := by
  decide
theorem test_wf_takes_largest_value : (Instr.dacWord .selector1 .on .x1 .active 0x0FFF#16).wellFormed = true := by
  decide

/-! ### Decoding: one written-out word per row (30_encoding.md R50, R52; vectors K3, K6, K8, K11, K13, K16, K19, K21-K33,
E12) -/

theorem test_decode_data : decode [0b00111100#8] = .ok (.data 0b0111100#7) := by rfl
theorem test_decode_noteOff : decode [0b10001111#8] = .ok (.noteOff 15#4) := by rfl
theorem test_decode_noteOn : decode [0b10010011#8] = .ok (.noteOn 3#4) := by rfl
theorem test_decode_polyPressure : decode [0b10101110#8] = .ok (.polyPressure 14#4) := by rfl
theorem test_decode_controlChange : decode [0b10110111#8] = .ok (.controlChange 7#4) := by rfl
theorem test_decode_programChange : decode [0b11000101#8] = .ok (.programChange 5#4) := by rfl
theorem test_decode_channelPressure : decode [0b11011000#8] = .ok (.channelPressure 8#4) := by rfl
theorem test_decode_pitchBend : decode [0b11101111#8] = .ok (.pitchBend 15#4) := by rfl
theorem test_decode_sysexStart : decode [0b11110000#8] = .ok .sysexStart := by rfl
theorem test_decode_sysexEnd : decode [0b11110111#8] = .ok .sysexEnd := by rfl
theorem test_decode_otherF1 : decode [0b11110001#8] = .ok .otherF1 := by rfl
theorem test_decode_otherF2F3 :
    decode [0b11110010#8] = .ok (.otherF2F3 0#1) ∧ decode [0b11110011#8] = .ok (.otherF2F3 1#1) := ⟨rfl, rfl⟩
theorem test_decode_otherF4F5 :
    decode [0b11110100#8] = .ok (.otherF4F5 0#1) ∧ decode [0b11110101#8] = .ok (.otherF4F5 1#1) := ⟨rfl, rfl⟩
theorem test_decode_otherF6 : decode [0b11110110#8] = .ok .otherF6 := by rfl
theorem test_decode_otherF8FF :
    decode [0b11111000#8] = .ok (.otherF8FF 0#3) ∧ decode [0b11111110#8] = .ok (.otherF8FF 6#3) := ⟨rfl, rfl⟩
theorem test_decode_dacWord :
    decode [0b10110001#8, 0b00100011#8] = .ok (.dacWord .selector1 .off .x1 .active 0x0123#16) := by rfl
theorem test_decode_refuses : decode [] = .error .noByte ∧ decode [0#8, 0#8, 0#8] = .error (.tooLong 3) := ⟨rfl, rfl⟩

/-- The table's numbering: a 16-bit row is one word. -/
theorem test_decodeTableWord :
    decodeTableWord 16 0xB123 = some (.dacWord .selector1 .off .x1 .active 0x0123#16) ∧
      decodeTableWord 8 0x93 = some (.noteOn 3#4) := ⟨rfl, rfl⟩

/-- The very next step runs the placed instruction, right after reset. -/
theorem test_withFetchWord_byte :
    step (State.reset.withFetchWord 8 0x93) = exec (.noteOn 3#4) State.reset := by rfl
theorem test_withFetchWord_word :
    step (State.reset.withFetchWord 16 0xB123) =
      exec (.dacWord .selector1 .off .x1 .active 0x0123#16) State.reset := by rfl

/-! ### One step per instruction -/

/-- S25: the second data byte completes the message. -/
theorem test_data_completes : eventsOf (exec (.data 0x7F#7) (inCore .data2 0x90 0x3C 0x00)) =
    some [.msgReady ⟨1⟩ 0x90#8 0x3C#8 0x7F#8] := by decide
/-- A9: the C-th byte forces delivery. -/
theorem test_data_fills : eventsOf (exec (.data 0x03#7) (inFrame 3 [0x01#8, 0x02#8])) =
    some [.sysExReady ⟨2⟩ [0x01#8, 0x02#8, 0x03#8]] := by decide
/-- S8. -/
theorem test_noteOff_accepted : coreView (exec (.noteOff 0#4) (blank 8)) =
    some (.data1, ⟨0x80#8, 0x00#8, 0x00#8⟩) := by decide
/-- A18. -/
theorem test_noteOff_aborts_frame : sysexView (exec (.noteOff 0#4) (inFrame 8 [0x41#8, 0x01#8])) =
    some (.idle, []) := by decide
/-- S10, with F_NOSYS. -/
theorem test_noteOn_filtered : coreView (exec (.noteOn 0#4) ((blank 8).setFilt (some maskNoSys))) =
    some (.data1, ⟨0x90#8, 0x00#8, 0x00#8⟩) := by decide
/-- S20: the same status byte still aborts. -/
theorem test_noteOn_swallowed : coreView (exec (.noteOn 0#4) (inCore .data1 0x90 0x3C 0x7F)) =
    some (.status, ⟨0x90#8, 0x3C#8, 0x7F#8⟩) := by decide
/-- R79, R93. -/
theorem test_polyPressure_accepted : coreView (exec (.polyPressure 15#4) (inCore .status 0x90 0x3C 0x7F)) =
    some (.data1, ⟨0xAF#8, 0x3C#8, 0x7F#8⟩) := by decide
/-- S15. -/
theorem test_controlChange_overwrites_status : coreView (exec (.controlChange 0#4) (inCore .status 0x90 0x3C 0x7F)) =
    some (.data1, ⟨0xB0#8, 0x3C#8, 0x7F#8⟩) := by decide
/-- TC11, its first byte. -/
theorem test_programChange_accepted : coreView (exec (.programChange 0#4) (blank 8)) =
    some (.data1, ⟨0xC0#8, 0x00#8, 0x00#8⟩) := by decide
/-- R82, R93. -/
theorem test_channelPressure_accepted : coreView (exec (.channelPressure 15#4) (blank 8)) =
    some (.data1, ⟨0xDF#8, 0x00#8, 0x00#8⟩) := by decide
/-- S11, with F_TRUE. -/
theorem test_pitchBend_accepted : coreView (exec (.pitchBend 15#4) ((blank 8).setFilt (some maskTrue))) =
    some (.data1, ⟨0xEF#8, 0x00#8, 0x00#8⟩) := by decide
/-- A1 and S6: the filter keeps the core parser out, not the accumulator. -/
theorem test_sysexStart_opens : (nextOf (exec .sysexStart ((blank 8).setFilt (some maskNoSys)))).map
    (fun t => (t.pstate, t.xstate)) = some (.status, .accumulating) := by decide
/-- A22: a second 0xF0 aborts and does not restart. -/
theorem test_sysexStart_aborts : sysexView (exec .sysexStart (inFrame 8 [0x41#8, 0x01#8])) = some (.idle, []) := by
  decide
/-- A13: the empty frame. -/
theorem test_sysexEnd_delivers_empty : eventsOf (exec .sysexEnd (inFrame 8 [])) = some [.sysExReady ⟨2⟩ []] := by
  decide
/-- A14. -/
theorem test_sysexEnd_delivers : eventsOf (exec .sysexEnd (inFrame 8 [0x41#8])) = some [.sysExReady ⟨2⟩ [0x41#8]] := by
  decide
/-- A21. -/
theorem test_otherF1_aborts_frame : sysexView (exec .otherF1 (inFrame 8 [0x41#8])) = some (.idle, []) := by decide
/-- R86, R93. -/
theorem test_otherF2F3_accepted : coreView (exec (.otherF2F3 1#1) (blank 8)) =
    some (.data1, ⟨0xF3#8, 0x00#8, 0x00#8⟩) := by decide
/-- R86, R93. -/
theorem test_otherF4F5_accepted : coreView (exec (.otherF4F5 1#1) (blank 8)) =
    some (.data1, ⟨0xF5#8, 0x00#8, 0x00#8⟩) := by decide
/-- R86, R93. -/
theorem test_otherF6_accepted : coreView (exec .otherF6 (blank 8)) = some (.data1, ⟨0xF6#8, 0x00#8, 0x00#8⟩) := by
  decide
/-- S29. -/
theorem test_otherF8FF_aborts_message : coreView (exec (.otherF8FF 6#3) (inCore .data2 0x90 0x3C 0x00)) =
    some (.status, ⟨0x90#8, 0x3C#8, 0x00#8⟩) := by decide
/-- S7: rejected. -/
theorem test_otherF8FF_rejected : coreView (exec (.otherF8FF 0#3) ((blank 8).setFilt (some maskNoSys))) =
    some (.status, ⟨0x00#8, 0x00#8, 0x00#8⟩) := by decide
/-- E13. -/
theorem test_dacWord_gain_2x : answerOf (exec (.dacWord .selector0 .on .x2 .active 0x0ABC#16) (blank 8)) =
    some (some (.word 0x5ABC#16)) := by decide
/-- E16: 4096 wraps to 0, and the configuration bits stay. -/
theorem test_dacWord_wraps : answerOf (exec (.dacWord .selector0 .off .x1 .active 0x1000#16) (blank 8)) =
    some (some (.word 0x3000#16)) := by decide

/-! ### The other operations -/

/-- K22, K29, K32, K3. -/
theorem test_commandOf : commandOf 0xF0#8 = .sysExStart ∧ commandOf 0xF7#8 = .sysExEnd ∧ commandOf 0xFE#8 = .other ∧
    commandOf 0x3C#8 = .other := by decide
/-- The example of R190: RESET drops the message in progress. -/
theorem test_reset_drops_message : (nextOf (perform .reset (inCore .data2 0x90 0x3C 0x00))).map
    (fun t => (t.pstate, t.msgCb, t.out)) = some (.status, none, []) := by decide
theorem test_overlap_refused : step ((blank 8).setStim [.overlapping (.feed 0x90#8) (.feed 0x3C#8)]) =
    .refused .reentrant := by rfl
/-- R175: a combinational function may be used inside a delivery. -/
theorem test_overlap_combinational : (nextOf (step ((blank 8).setStim
    [.overlapping (.feed 0x90#8) (.isStatus 0x90#8)]))).map (fun t => (t.pstate, t.answer)) =
      some (.data1, some (.bit true)) := by decide
/-- A write past the capacity faults (no run does it). -/
theorem test_xbuf_outside_faults : writeXbuf 8 0x00#8 (blank 8) = .fault (.xbufIndex 8) := by rfl
/-- V9, with the wire order of R134. -/
theorem test_application_dac : appAction ⟨0x41#7, .ignore, ⟨.selector0, .on, .x1, .active⟩⟩
    [0x41#8, 0x01#8, 0x00#8, 0x10#8] = .sendDac 0x7010#16 ∧ wireBytes 0x7010#16 = [0x70#8, 0x10#8] := by decide
/-- The masks above are the predicates of 95_test_vectors.md at the edges of their ranges. -/
theorem test_masks : maskAccepts maskNoSys 0xEF#8 = true ∧ maskAccepts maskNoSys 0xF0#8 = false ∧
    maskAccepts maskNoSys 0x80#8 = true ∧ maskAccepts maskTrue 0xFF#8 = true ∧ maskAccepts maskFalse 0x80#8 = false := by
  decide

/-! ### Witnesses: for each obligation with hypotheses, values that meet them, clause by clause -/

/-- DecodeAfterEncode: the largest value the encoding admits. -/
theorem test_witness_DecodeAfterEncode :
    (Instr.dacWord .selector1 .on .x1 .active 0x0FFF#16).wellFormed = true := by decide

/-- DecodeRefusesByLengthAlone and EncodeAfterDecode: both lengths. -/
theorem test_witness_EncodeAfterDecode :
    decode [0x7F#8] = .ok (.data 0x7F#7) ∧
      decode [0xFF#8, 0xFF#8] = .ok (.dacWord .selector1 .on .x1 .active 0x0FFF#16) := ⟨rfl, rfl⟩

theorem test_witness_StepRunsDecodedInstruction :
    (((blank 8).setStim [.one (.feed 0xF0#8)]).stim = [.one (.feed 0xF0#8)] ∧ decode [0xF0#8] = .ok .sysexStart) ∧
    (((blank 8).setStim [.one (.codecWord 0x7FFF#16)]).stim = [.one (.codecWord 0x7FFF#16)] ∧
      decode (wireBytes 0x7FFF#16) = .ok (.dacWord .selector0 .on .x1 .active 0x0FFF#16)) ∧
    ((blank 8).setStim [.one (.encode ⟨.selector0, .on, .x1, .active⟩ 0x1FFF#16)]).stim =
      [.one (.encode ⟨.selector0, .on, .x1, .active⟩ 0x1FFF#16)] := ⟨⟨rfl, rfl⟩, ⟨rfl, rfl⟩, rfl⟩

theorem test_witness_CombinationalFunctionsTouchNothing :
    touchesState (.isStatus 0x80#8) = false ∧ touchesState (.codecWord 0x7FFF#16) = false := by decide

theorem test_witness_DacWordsAreBijective : (0x0FFF#16 : Word).toNat < 4096 ∧
    dacEncode ⟨.selector1, .on, .x1, .active⟩ 0x0FFF#16 = 0xFFFF#16 := by decide

/-- The seven rows, at the edges of the byte ranges. -/
theorem test_witness_CoreParserFollowsItsTable :
    ((blank 8).XbufInv ∧ decode [0x7F#8] = .ok (.data 0x7F#7) ∧ (blank 8).pstate = .status ∧ isData 0x7F#8 = true) ∧
    (((blank 8).setFilt (some maskNoSys)).XbufInv ∧ decode [0xF0#8] = .ok .sysexStart ∧ isStatus 0xF0#8 = true ∧
      ((blank 8).setFilt (some maskNoSys)).rejects 0xF0#8) ∧
    (isStatus 0x80#8 = true ∧ (blank 8).accepts 0x80#8 ∧ ((blank 8).setFilt (some maskNoSys)).accepts 0x80#8) ∧
    ((inCore .data1 0x90 0x00 0x00).XbufInv ∧ isStatus 0xFF#8 = true ∧ isData 0x00#8 = true) ∧
    ((inCore .data2 0x90 0x3C 0x00).XbufInv ∧ isStatus 0x80#8 = true ∧ isData 0x7F#8 = true) := by
  refine ⟨⟨by decide, rfl, rfl, by decide⟩, ⟨by decide, rfl, by decide, ?_⟩, ⟨by decide, .inl rfl, .inr ?_⟩,
    by decide, by decide⟩
  · exact ⟨maskNoSys, rfl, by decide⟩
  · exact ⟨maskNoSys, rfl, by decide⟩

theorem test_witness_InterruptingStatusByteIsSwallowed :
    ((inCore .data2 0x90 0x3C 0x00).XbufInv ∧ (inCore .data2 0x90 0x3C 0x00).pstate ≠ .status ∧
      isStatus 0x80#8 = true ∧ isData 0x3C#8 = true ∧ isData 0x40#8 = true) ∧
    ((inCore .data1 0x90 0x00 0x00).XbufInv ∧ (inCore .data1 0x90 0x00 0x00).pstate ≠ .status) ∧
    (inCore .data2 0x90 0x3C 0x00).accepts 0x80#8 := ⟨by decide, by decide, .inl rfl⟩

theorem test_witness_WellFormedMessageIsDeliveredOnce :
    (blank 8).XbufInv ∧ (blank 8).pstate = .status ∧ isStatus 0x90#8 = true ∧ (blank 8).accepts 0x90#8 ∧
      isData 0x3C#8 = true ∧ isData 0x7F#8 = true :=
  ⟨by decide, rfl, by decide, .inl rfl, by decide, by decide⟩

theorem test_witness_DataBytesAloneChangeNothing :
    (blank 8).pstate = .status ∧ (blank 8).xstate = .idle ∧ ∀ b ∈ [0x00#8, 0x7F#8], isData b = true := by decide

theorem test_witness_RejectingFilterSilencesMessages :
    ((blank 8).setFilt (some maskFalse)).XbufInv ∧ ((blank 8).setFilt (some maskFalse)).pstate = .status ∧
      ((blank 8).setFilt (some maskFalse)).filt = some maskFalse ∧
      ∀ b, isStatus b = true → maskAccepts maskFalse b = false := by
  refine ⟨by decide, rfl, rfl, ?_⟩
  decide

/-- A start, an append at C - 2, the append at C - 1 (C = 1 too), an abort. -/
theorem test_witness_AccumulatorFollowsItsTable :
    ((blank 8).XbufInv ∧ (blank 8).xstate = .idle ∧ decode [0xF0#8] = .ok .sysexStart) ∧
    ((inFrame 3 [0x01#8]).XbufInv ∧ (inFrame 3 [0x01#8]).xlen + 1 < 3 ∧ decode [0x02#8] = .ok (.data 0x02#7)) ∧
    ((inFrame 3 [0x01#8, 0x02#8]).XbufInv ∧ (inFrame 3 [0x01#8, 0x02#8]).xlen + 1 = 3) ∧
    ((inFrame 1 []).XbufInv ∧ (inFrame 1 []).xlen + 1 = 1) ∧
    ((inFrame 8 [0x41#8]).XbufInv ∧ (inFrame 8 [0x41#8]).xstate = .accumulating ∧ isStatus 0x80#8 = true) :=
  ⟨⟨by decide, rfl, rfl⟩, ⟨by decide, by decide, rfl⟩, by decide, by decide, by decide⟩

theorem test_witness_AccumulatorFollowsTheSpecsDecisions :
    ((blank 8).XbufInv ∧ (blank 8).xstate = .idle ∧ decode [0xF7#8] = .ok .sysexEnd) ∧
    ((inFrame 8 []).XbufInv ∧ (inFrame 8 []).xstate = .accumulating) ∧
    ((inFrame 8 [0x41#8]).XbufInv ∧ (inFrame 8 [0x41#8]).xstate = .accumulating ∧ decode [0xF0#8] = .ok .sysexStart) :=
  ⟨⟨by decide, rfl, rfl⟩, by decide, ⟨by decide, rfl, rfl⟩⟩

/-- An empty payload and the longest one that needs its terminator. -/
theorem test_witness_FilteredFrameIsDeliveredWhole :
    ((blank 3).setFilt (some maskNoSys)).XbufInv ∧ ((blank 3).setFilt (some maskNoSys)).pstate = .status ∧
      ((blank 3).setFilt (some maskNoSys)).xstate = .idle ∧ ((blank 3).setFilt (some maskNoSys)).rejects 0xF0#8 ∧
      ((blank 3).setFilt (some maskNoSys)).rejects 0xF7#8 ∧ (∀ b ∈ [0x01#8, 0x02#8], isData b = true) ∧
      ([0x01#8, 0x02#8] : List Byte).length < (blank 3).capacity ∧ ([] : List Byte).length < (blank 3).capacity :=
  ⟨by decide, rfl, rfl, ⟨maskNoSys, rfl, by decide⟩, ⟨maskNoSys, rfl, by decide⟩, by decide, by decide, by decide⟩

/-- Payloads of none, one and two bytes, the last the longest below the capacity. -/
theorem test_witness_UnfilteredFrameReachesBothMachines :
    (blank 3).XbufInv ∧ (blank 3).pstate = .status ∧ (blank 3).xstate = .idle ∧ (blank 3).filt = none ∧
      ∀ p ∈ ([[], [0x41#8], [0x41#8, 0x01#8]] : List (List Byte)),
        (∀ b ∈ p, isData b = true) ∧ p.length < (blank 3).capacity := by decide

/-- A payload of exactly C bytes. -/
theorem test_witness_OverlongFrameIsCutAtTheCapacity :
    ((blank 2).setFilt (some maskNoSys)).XbufInv ∧ ((blank 2).setFilt (some maskNoSys)).pstate = .status ∧
      ((blank 2).setFilt (some maskNoSys)).xstate = .idle ∧ ((blank 2).setFilt (some maskNoSys)).rejects 0xF0#8 ∧
      (∀ b ∈ [0x01#8, 0x02#8], isData b = true) ∧ (blank 2).capacity ≤ ([0x01#8, 0x02#8] : List Byte).length :=
  ⟨by decide, rfl, rfl, ⟨maskNoSys, rfl, by decide⟩, by decide, by decide⟩

/-- DataByteResult: PSTATE at each value, XSTATE idle, and the buffer one below and at its last place. -/
theorem test_witness_DataByteResult :
    ((blank 8).XbufInv ∧ (blank 8).pstate = .status ∧ (blank 8).xstate = .idle) ∧
    ((inCore .data1 0x90 0x00 0x00).XbufInv ∧ (inCore .data2 0x90 0x3C 0x00).XbufInv) ∧
    ((inFrame 2 []).XbufInv ∧ (inFrame 2 []).xlen + 1 < (inFrame 2 []).capacity) ∧
    ((inFrame 2 [0x11#8]).XbufInv ∧ (inFrame 2 [0x11#8]).xlen + 1 = (inFrame 2 [0x11#8]).capacity) := by decide

/-- Each of the twelve rows, at an edge of its field. -/
theorem test_witness_PlainStatusByteResult :
    PlainStatus (.noteOff 0#4) 0x80#8 ∧ PlainStatus (.noteOn 15#4) 0x9F#8 ∧ PlainStatus (.polyPressure 0#4) 0xA0#8 ∧
    PlainStatus (.controlChange 15#4) 0xBF#8 ∧ PlainStatus (.programChange 0#4) 0xC0#8 ∧
    PlainStatus (.channelPressure 15#4) 0xDF#8 ∧ PlainStatus (.pitchBend 15#4) 0xEF#8 ∧ PlainStatus .otherF1 0xF1#8 ∧
    PlainStatus (.otherF2F3 1#1) 0xF3#8 ∧ PlainStatus (.otherF4F5 0#1) 0xF4#8 ∧ PlainStatus .otherF6 0xF6#8 ∧
    PlainStatus (.otherF8FF 7#3) 0xFF#8 := by simp [PlainStatus]

/-- The clauses of SysexStartResult, SysexEndResult and PlainStatusByteResult on the state. -/
theorem test_witness_status_byte_clauses :
    ((blank 8).pstate = .status ∧ (blank 8).accepts 0xF0#8 ∧ (blank 8).xstate = .idle) ∧
    ((blank 8).setFilt (some maskNoSys)).rejects 0xF0#8 ∧ (inCore .data1 0x90 0x00 0x00).pstate ≠ .status ∧
    (inFrame 8 []).xstate = .accumulating :=
  ⟨⟨rfl, .inl rfl, rfl⟩, ⟨maskNoSys, rfl, by decide⟩, by decide, rfl⟩

/-- Two states that differ in the accumulator alone. -/
theorem test_witness_CoreParserIsBlindToTheAccumulator :
    decode [0x90#8] = .ok (.noteOn 0#4) ∧ (blank 8).pstate = (inFrame 8 [0x41#8]).pstate ∧
      (blank 8).msg = (inFrame 8 [0x41#8]).msg ∧ (blank 8).filt = (inFrame 8 [0x41#8]).filt ∧
      (blank 8).msgCb = (inFrame 8 [0x41#8]).msgCb ∧ (blank 8).messages = (inFrame 8 [0x41#8]).messages ∧
      (∃ t, exec (.noteOn 0#4) (blank 8) = .next t) ∧ ∃ t, exec (.noteOn 0#4) (inFrame 8 [0x41#8]) = .next t :=
  ⟨rfl, rfl, rfl, rfl, rfl, rfl, ⟨_, rfl⟩, _, rfl⟩

/-- Two states that differ in the core parser and the filter alone. -/
theorem test_witness_AccumulatorIsBlindToFilterAndCoreParser :
    decode [0xF0#8] = .ok .sysexStart ∧
      (inCore .data1 0x90 0x00 0x00).capacity = ((blank 8).setFilt (some maskFalse)).capacity ∧
      (inCore .data1 0x90 0x00 0x00).xstate = ((blank 8).setFilt (some maskFalse)).xstate ∧
      (inCore .data1 0x90 0x00 0x00).xbuf = ((blank 8).setFilt (some maskFalse)).xbuf ∧
      (inCore .data1 0x90 0x00 0x00).sxCb = ((blank 8).setFilt (some maskFalse)).sxCb ∧
      (inCore .data1 0x90 0x00 0x00).buffers = ((blank 8).setFilt (some maskFalse)).buffers ∧
      ∃ t, exec .sysexStart (inCore .data1 0x90 0x00 0x00) = .next t :=
  ⟨rfl, rfl, rfl, rfl, rfl, rfl, _, rfl⟩

/-- MissingConsumerLosesOnlyItsEvents and FeedEmitsMessageThenBuffer: a byte that completes both. -/
theorem test_witness_MissingConsumerLosesOnlyItsEvents :
    decode [0x22#8] = .ok (.data 0x22#7) ∧
      ∃ t, exec (.data 0x22#7) ((inFrame 2 [0x11#8]).setPState .data2) = .next t := ⟨rfl, _, rfl⟩

theorem test_witness_AcceptingFilterIsLikeNoFilter :
    (∀ c, isStatus c = true → maskAccepts maskTrue c = true) ∧ decode [0xFF#8] = .ok (.otherF8FF 7#3) ∧
      ∃ t, exec (.otherF8FF 7#3) ((blank 8).setFilt (some maskTrue)) = .next t := by
  refine ⟨?_, rfl, _, rfl⟩
  decide

theorem test_witness_MaskAnswersAsItsPredicate : isStatus 0x80#8 = true ∧ isStatus 0xFF#8 = true := by decide

/-- P6, step 3. -/
theorem test_witness_TwoEventsInOneFeedNeedCapacityTwo :
    (((inFrame 2 [0x11#8]).setPState .data2).setMsg ⟨0xF0#8, 0x11#8, 0x00#8⟩).Inv ∧
      decode [0x22#8] = .ok (.data 0x22#7) ∧
      ∃ t, exec (.data 0x22#7) (((inFrame 2 [0x11#8]).setPState .data2).setMsg ⟨0xF0#8, 0x11#8, 0x00#8⟩) = .next t ∧
        t.out = (((inFrame 2 [0x11#8]).setPState .data2).setMsg ⟨0xF0#8, 0x11#8, 0x00#8⟩).out ++
          [.msgReady ⟨1⟩ 0xF0#8 0x11#8 0x22#8, .sysExReady ⟨2⟩ [0x11#8, 0x22#8]] :=
  ⟨by decide, rfl, _, rfl, rfl⟩

/-- Each clause has an operation it speaks of. -/
theorem test_witness_OperationsWriteOnlyTheirRegisters :
    (∃ t, perform (.setFilter maskFalse) (blank 8) = .next t) ∧ (∃ t, perform (.feed 0x90#8) (blank 8) = .next t) ∧
      Operation.setFilter maskFalse ≠ .reset ∧ (∀ b, Operation.setFilter maskFalse ≠ .feed b) ∧
      (∀ p, Operation.feed 0x90#8 ≠ .setFilter p) ∧ (∀ h, Operation.feed 0x90#8 ≠ .setMsgCb h) ∧
      ∀ h, Operation.feed 0x90#8 ≠ .setSysexCb h :=
  ⟨⟨_, rfl⟩, ⟨_, rfl⟩, by decide, by simp, by simp, by simp, by simp⟩

theorem test_witness_EveryOperationCompletes : (blank 1).XbufInv ∧ (inFrame 1 []).XbufInv := by decide

theorem test_witness_ParkedBlockWaitsForAStatusByte :
    (blank 8).stim = [] ∧ isStatus 0xFF#8 = true ∧ decode [0xFF#8] = .ok (.otherF8FF 7#3) ∧
      (inCore .data2 0x90 0x3C 0x00).pstate ≠ .status ∧ (inFrame 8 []).xstate = .accumulating :=
  ⟨rfl, by decide, rfl, by decide, rfl⟩

/-- EveryStepKeepsTheInvariant, NoStepFaults, EmittedEventsAreNeverChanged: a state with an open frame and a request. -/
theorem test_witness_EveryStepKeepsTheInvariant :
    ((inFrame 2 [0x11#8]).withFeeds [0x22#8]).Inv ∧
      (∃ t, step ((inFrame 2 [0x11#8]).withFeeds [0x22#8]) = .next t) ∧
      ∀ r ∈ ((inFrame 2 [0x11#8]).withFeeds [0x22#8]).stim.head?, r.resets = false := by
  refine ⟨by decide, ⟨_, rfl⟩, ?_⟩
  intro r hr
  cases hr
  rfl

theorem test_witness_InstancesDoNotInterfere :
    ∃ bank', stepInstance [blank 8, (blank 8).withFeeds [0x90#8]] 1 = some bank' := ⟨_, rfl⟩

theorem test_witness_ApplicationDispatchesOnLengthAndHeader :
    (∀ hi lo, ([0x41#8, 0x03#8, 0x00#8] : List Byte) ≠ [0b0#1 ++ 0x41#7, 0x01#8, hi, lo]) ∧
      ∀ g, ([0x41#8, 0x03#8, 0x00#8] : List Byte) ≠ [0b0#1 ++ 0x41#7, 0x02#8, g] := by
  constructor
  · intro hi lo h
    cases h
  · intro g h
    revert h
    simp

end Sys2Proof.Tests
end

/-! PROOFS. The statements of 10_state.md: the invariant of R24 along every step, OUT as a sequence that only grows, the
filter's mask, the reset state, and instances side by side. -/

namespace Sys2Proof.Machine

/-! ### What an operation and a step can do -/

/-- The operations a request issues. -/
def Request.operations : Request → List Operation
  | .one o => [o]
  | .overlapping first second => [first, second]

theorem Request.resets_eq_false_iff {r : Request} : r.resets = false ↔ ∀ o ∈ r.operations, o ≠ .reset := by
  cases r <;> simp [Request.resets, Request.operations]

section
variable {o : Operation} {s t : State}

/-- What an operation can do if it answers a next state: restart the block, feed one byte, write one control register,
or put a result on its output. -/
theorem perform_cases (h : perform o s = .next t) :
    (o = .reset ∧ t = performReset s) ∨ (∃ b, o = .feed b ∧ feed b s = .next t) ∨
    (∃ p, o = .setFilter p ∧ t = s.setFilt (some p)) ∨ (∃ g, o = .setMsgCb g ∧ t = s.setMsgCb (some g)) ∨
    (∃ g, o = .setSysexCb g ∧ t = s.setSxCb (some g)) ∨
    (touchesState o = false ∧ ∃ a, t = s.setAnswer (some a)) := by
  cases o with
  | feed b => exact .inr (.inl ⟨b, rfl, runBytes_single b s ▸ h⟩)
  | reset => cases h; exact .inl ⟨rfl, rfl⟩
  | setFilter p => cases h; exact .inr (.inr (.inl ⟨p, rfl, rfl⟩))
  | setMsgCb g => cases h; exact .inr (.inr (.inr (.inl ⟨g, rfl, rfl⟩)))
  | setSysexCb g => cases h; exact .inr (.inr (.inr (.inr (.inl ⟨g, rfl, rfl⟩))))
  | isStatus | isData | commandOf | channelOf | isCommand | encode | codecWord =>
    cases h; exact .inr (.inr (.inr (.inr (.inr ⟨rfl, _, rfl⟩))))

/-- A request that is served performs its operations one after the other: a property that each of them keeps, it keeps. -/
theorem serve_keeps {P : State → Prop} {r : Request}
    (hop : ∀ o ∈ r.operations, ∀ u v, P u → perform o u = .next v → P v)
    (hs : P s) (h : serve r s = .next t) : P t := by
  cases r with
  | one o => exact hop o (by simp [Request.operations]) s t hs h
  | overlapping first second =>
    simp only [serve] at h
    split at h
    · cases h
    · obtain ⟨u, h₁, h₂⟩ := andThen_eq_next h
      have hu : P u := hop first (by simp [Request.operations]) s u hs h₁
      exact hop second (by simp [Request.operations]) u t hu h₂

/-- A property of states that does not speak of the queue, and that every operation of the oldest request keeps, is kept
by the step. -/
theorem step_keeps {P : State → Prop} (hstim : ∀ u rs, P u → P (u.setStim rs))
    (hop : ∀ r ∈ s.stim.head?, ∀ o ∈ r.operations, ∀ u v, P u → perform o u = .next v → P v)
    (hs : P s) (h : step s = .next t) : P t := by
  cases hq : s.stim with
  | nil =>
    rw [step_nil hq] at h
    cases h
    exact hs
  | cons r rest =>
    rw [step_cons hq] at h
    exact serve_keeps (hop r (by simp [hq])) (hstim s rest hs) h

end

/-! ### The invariant of R24 under FEED -/

section
variable {b : Byte} {s t : State}

/-- An event for a completed message is lawful when the slot holds a status byte and two data bytes (R24 item 6). -/
theorem msgEvents_lawful (c : Nat) (hst : isStatus s.msg.status = true) (hd1 : isData s.msg.data1 = true)
    (hd2 : isData b = true) : (msgEvents s b).all (Event.lawful c) = true := by
  cases h : s.msgCb <;> simp [msgEvents, h, Event.lawful, hst, hd1, hd2]

/-- The event of a delivery is lawful when at most C data bytes are delivered (R24 item 7). -/
theorem sysexEvents_lawful {c : Nat} {bytes : List Byte} (s : State) (hlen : bytes.length ≤ c)
    (hdata : bytes.all isData = true) : (sysexEvents s bytes).all (Event.lawful c) = true := by
  unfold sysexEvents
  cases s.sxCb with
  | none => rfl
  | some g => simpa [Event.lawful, hlen] using hdata

/-- R24 items 1 and 2: the slot holds what PSTATE says it does. -/
theorem coreStep_keeps_msgInv (b : Byte) (h : s.MsgInv) : (coreStep b s).MsgInv := by
  obtain ⟨hst, hd1⟩ := h
  obtain ⟨hp, -, he⟩ | ⟨-, hc, he⟩ | ⟨hp, hd, he⟩ | ⟨-, -, he⟩ | ⟨-, -, he⟩ := coreStep_cases b s <;> rw [he]
  · exact ⟨hst, hd1⟩
  · obtain ⟨hb, -⟩ := Bool.and_eq_true_iff.1 hc
    simp [State.MsgInv, hb]
  · have hst' := hst (by simp [hp])
    simp [State.MsgInv, hst', hd]
  · simp [State.MsgInv]
  · simp [State.MsgInv]

/-- R24 item 6: a message is delivered from DATA2 alone, where the slot holds its status byte and its first data byte. -/
theorem coreStep_keeps_outInv (b : Byte) (hm : s.MsgInv) (ho : s.OutInv) : (coreStep b s).OutInv := by
  obtain ⟨hst, hd1⟩ := hm
  have hnew : (if s.pstate = .data2 ∧ isData b = true then msgEvents s b else []).all (Event.lawful s.capacity) := by
    split
    · rename_i hc
      obtain ⟨hp, hd⟩ := hc
      exact msgEvents_lawful _ (hst (by simp [hp])) (hd1 hp) hd
    · rfl
  simp only [State.OutInv, coreStep_out, coreStep_capacity, List.all_append, Bool.and_eq_true]
  exact ⟨ho, hnew⟩

/-- Where a FEED leaves the accumulator if its buffer was in order: idle and empty, in a new frame, or in the frame it was
in with the data byte appended and room for another (R111-R116). -/
theorem feed_xbuf_cases (hx : s.XbufInv) (h : feed b s = .next t) :
    (t.xstate = .idle ∧ t.xbuf = []) ∨
    (b = 0xF0#8 ∧ t.xstate = .accumulating ∧ t.xbuf = []) ∨
    (s.xstate = .accumulating ∧ isData b = true ∧ s.xlen + 1 < s.capacity ∧ t.xstate = .accumulating ∧
      t.xbuf = s.xbuf ++ [(s.xlen, b)]) := by
  obtain ⟨t', h', -, -, -, -, hignore, hopen, hclose, hfull, happend⟩ := feed_result (b := b) (.inl hx)
  cases h.symm.trans h'
  obtain ⟨-, -, hidle, hroom, -⟩ := hx
  cases hs : s.xstate with
  | idle =>
    by_cases hb : b = 0xF0#8
    · exact .inr (.inl ⟨hb, hopen hs hb⟩)
    · obtain ⟨hti, htb⟩ := hignore hs hb
      exact .inl ⟨hti, htb.trans (hidle hs)⟩
  | accumulating =>
    cases hd : isData b with
    | false => exact .inl (hclose hs hd)
    | true =>
      have hle : s.xlen + 1 ≤ s.capacity := hroom hs
      rcases hle.eq_or_lt with heq | hlt
      · exact .inl (hfull hs hd heq)
      · exact .inr (.inr ⟨rfl, rfl, hlt, happend hs hd hlt⟩)

/-- R24 items 3, 4 and 5. -/
theorem feed_keeps_xbufInv (hx : s.XbufInv) (h : feed b s = .next t) : t.XbufInv := by
  obtain ⟨hcap, -⟩ := feed_frame h
  have hrows := feed_xbuf_cases hx h
  obtain ⟨hpos, hcon, -, -, hall⟩ := hx
  unfold State.XbufInv
  rw [hcap]
  obtain ⟨htx, htb⟩ | ⟨-, htx, htb⟩ | ⟨-, hd, hlt, htx, htb⟩ := hrows <;> rw [htx, htb]
  · simp [hpos]
  · simp [hpos]
  · have hlen : (s.xbuf ++ [(s.xlen, b)]).length + 1 ≤ s.capacity := by
      simpa [State.xlen] using hlt
    have hall' : (Memory.bytes (s.xbuf ++ [(s.xlen, b)])).all isData = true := by
      rw [Memory.bytes_append, List.all_append, hall]
      simpa [Memory.bytes] using hd
    exact ⟨hpos, Memory.contiguous_append hcon b, by simp, fun _ => hlen, hall'⟩

/-- R24 items 6 and 7: the events of a FEED are lawful. -/
theorem feed_keeps_outInv (hm : s.MsgInv) (hx : s.XbufInv) (ho : s.OutInv) (h : feed b s = .next t) : t.OutInv := by
  obtain ⟨t', h', ⟨hcap, -⟩, -, -, hout, -⟩ := feed_result (b := b) (.inl hx)
  cases h.symm.trans h'
  have hcore : (coreStep b s).out.all (Event.lawful s.capacity) = true := by
    simpa [State.OutInv] using coreStep_keeps_outInv b hm ho
  obtain ⟨-, -, -, hroom, hall⟩ := hx
  simp only [State.OutInv, hcap, hout, List.all_append, hcore, Bool.true_and]
  split
  · rename_i hc
    have := hroom hc.1
    exact sysexEvents_lawful s (by rw [Memory.bytes_length]; omega) hall
  · split
    · rename_i hc
      obtain ⟨-, hd, hlen⟩ := hc
      exact sysexEvents_lawful s (by simpa [State.xlen] using hlen.le) (by simp [hall, hd])
    · rfl

/-- FEED leaves PSTATE and MSG as the core parser does. -/
theorem feed_core (h : feed b s = .next t) : t.pstate = (coreStep b s).pstate ∧ t.msg = (coreStep b s).msg := by
  obtain ⟨-, hp, hm, -⟩ := sysexStep_frame h
  exact ⟨hp, hm⟩

/-- The link behind R149: a frame opens only with the 0xF0 that the core parser has just seen too, and every byte that the
frame takes is one that the message in progress takes. -/
theorem feed_keeps_linkInv (hx : s.XbufInv) (hl : s.LinkInv) (h : feed b s = .next t) : t.LinkInv := by
  obtain ⟨hp, hm⟩ := feed_core h
  unfold State.LinkInv
  rw [hp, hm]
  intro hacc hprog
  obtain ⟨htx, -⟩ | ⟨rfl, -, htb⟩ | ⟨hsx, hd, -, -, htb⟩ := feed_xbuf_cases hx h
  · simp [htx] at hacc
  · obtain ⟨hp', hc, he⟩ | ⟨-, -, he⟩ | ⟨-, hd, -⟩ | ⟨-, -, he⟩ | ⟨-, hd, -⟩ := coreStep_cases 0xF0#8 s
    · simp [he, hp'] at hprog
    · simp [he, htb]
    · cases hd
    · simp [he] at hprog
    · cases hd
  · obtain ⟨hstatus, hdata1, hdata2⟩ := coreStep_data s hd
    cases hs : s.pstate with
    | status => exact absurd (hstatus hs).1 hprog
    | data2 => exact absurd (hdata2 hs).1 hprog
    | data1 =>
      obtain ⟨hp', hm'⟩ := hdata1 hs
      obtain ⟨hF0, hbytes⟩ := hl hsx (by simp [hs])
      have hempty : s.xbuf.bytes = [] := by simpa [hs] using hbytes
      rw [hp', hm', htb, Memory.bytes_append, hempty]
      exact ⟨hF0, rfl⟩

/-- A FEED keeps the invariant. -/
theorem feed_keeps_inv (hs : s.Inv) (h : feed b s = .next t) : t.Inv := by
  obtain ⟨hm, hx, ho, hl⟩ := hs
  obtain ⟨hp, hmsg⟩ := feed_core h
  have hmt : t.MsgInv := by
    unfold State.MsgInv
    rw [hp, hmsg]
    exact coreStep_keeps_msgInv b hm
  exact ⟨hmt, feed_keeps_xbufInv hx h, feed_keeps_outInv hm hx ho h, feed_keeps_linkInv hx hl h⟩

end

/-! ### The invariant of R24 under every operation -/

/-- RESET leaves nothing in progress and nothing in OUT, so only the capacity has to be in order (R190). -/
theorem performReset_inv {s : State} (hcap : 1 ≤ s.capacity) : (performReset s).Inv := by
  refine ⟨?_, ?_, ?_, ?_⟩ <;>
    simp [State.MsgInv, State.XbufInv, State.OutInv, State.LinkInv, performReset, scrambleMsg, clearXbuf, hcap]

/-- The control registers, the answer and the queue stand outside the invariant; RESET and FEED keep it. -/
theorem perform_keeps_inv {o : Operation} {s t : State} (hs : s.Inv) (h : perform o s = .next t) : t.Inv := by
  obtain ⟨-, rfl⟩ | ⟨b, -, hf⟩ | ⟨p, -, rfl⟩ | ⟨g, -, rfl⟩ | ⟨g, -, rfl⟩ | ⟨-, a, rfl⟩ := perform_cases h
  · obtain ⟨-, ⟨hcap, -⟩, -⟩ := hs
    exact performReset_inv hcap
  · exact feed_keeps_inv hs hf
  · exact hs
  · exact hs
  · exact hs
  · exact hs

/-- Settles O48: each operation of the request keeps the invariant, and so the step does. -/
theorem everyStepKeepsTheInvariant : Obligations.EveryStepKeepsTheInvariant := by
  intro s t hs h
  exact step_keeps (P := State.Inv) (fun _ _ hu => hu) (fun _ _ _ _ _ _ hu hv => perform_keeps_inv hu hv) hs h

/-! ### OUT grows -/

section
variable {b : Byte} {s t : State}

/-- The accumulator only appends to OUT. -/
theorem sysexStep_out_prefix (h : sysexStep b s = .next t) : s.out <+: t.out := by
  obtain ⟨-, -, rfl⟩ | ⟨-, -, rfl⟩ | ⟨-, -, -, rfl⟩ | ⟨-, -, rfl⟩ | ⟨-, -, -, rfl⟩ := sysexStep_cases h
  · exact List.prefix_rfl
  · exact List.prefix_rfl
  · unfold closeIfFull
    split <;> simp [closeFrame_eq, deliverSysex_eq]
  · simp [closeFrame_eq, deliverSysex_eq]
  · exact List.prefix_rfl

/-- FEED only appends to OUT. -/
theorem feed_out_prefix (h : feed b s = .next t) : s.out <+: t.out := by
  have hcore : s.out <+: (coreStep b s).out := coreStep_out b s ▸ List.prefix_append _ _
  exact hcore.trans (sysexStep_out_prefix h)

/-- Every operation but RESET only appends to OUT (R140, R190). -/
theorem perform_out_prefix {o : Operation} (ho : o ≠ .reset) (h : perform o s = .next t) : s.out <+: t.out := by
  obtain ⟨hr, -⟩ | ⟨b, -, hf⟩ | ⟨p, -, rfl⟩ | ⟨g, -, rfl⟩ | ⟨g, -, rfl⟩ | ⟨-, a, rfl⟩ := perform_cases h
  · exact absurd hr ho
  · exact feed_out_prefix hf
  · exact List.prefix_rfl
  · exact List.prefix_rfl
  · exact List.prefix_rfl
  · exact List.prefix_rfl

end

/-- Settles O50: the new OUT starting with the earlier one is kept by every operation of a request that issues no RESET. -/
theorem emittedEventsAreNeverChanged : Obligations.EmittedEventsAreNeverChanged := by
  intro s t hr h
  have hpre : s.out <+: t.out :=
    step_keeps (P := fun u => s.out <+: u.out) (fun _ _ hu => hu)
      (fun r hmem o ho _ _ hu hv =>
        hu.trans (perform_out_prefix (Request.resets_eq_false_iff.1 (hr r hmem) o ho) hv))
      List.prefix_rfl h
  obtain ⟨es, hes⟩ := hpre
  exact ⟨es, hes.symm⟩

/-! ### The filter -/

section
variable {b : Byte} {s t : State}

/-- The core parser reads of the filter its verdict on the byte alone: another filter with the same verdict makes no
difference but for the register itself (R18, R93). -/
theorem coreStep_setFilt (f : Option StatusMask)
    (hf : isStatus b = true → filterAccepts f b = filterAccepts s.filt b) :
    coreStep b (s.setFilt f) = (coreStep b s).setFilt f := by
  have hverdict : (isStatus b && filterAccepts f b) = (isStatus b && filterAccepts s.filt b) := by
    cases hb : isStatus b with
    | false => rfl
    | true => rw [hf hb]
  unfold coreStep
  cases hp : s.pstate with
  | status =>
    simp only [State.setFilt_pstate, hp, State.setFilt_filt, hverdict]
    split <;> rfl
  | data1 =>
    simp only [State.setFilt_pstate, hp]
    split <;> rfl
  | data2 =>
    simp only [State.setFilt_pstate, hp, deliverMsg_eq]
    split <;> rfl

theorem closeIfFull_setFilt (f : Option StatusMask) (s : State) :
    closeIfFull (s.setFilt f) = (closeIfFull s).setFilt f := by
  have hfull : bufferFull (s.setFilt f) = bufferFull s := rfl
  simp only [closeIfFull, hfull, deliverSysex_eq]
  split <;> rfl

/-- The accumulator never consults the filter (R119). -/
theorem sysexStep_setFilt (f : Option StatusMask) (h : sysexStep b s = .next t) :
    sysexStep b (s.setFilt f) = .next (t.setFilt f) := by
  obtain ⟨hx, hb, rfl⟩ | ⟨hx, rfl, rfl⟩ | ⟨hx, hd, hlt, rfl⟩ | ⟨hx, rfl, rfl⟩ | ⟨hx, hd, hb, rfl⟩ := sysexStep_cases h
  · exact sysexStep_idle_other hx hb
  · exact sysexStep_idle_start hx
  · have hx' : (s.setFilt f).xstate = .accumulating := hx
    have hlt' : (s.setFilt f).xlen < (s.setFilt f).capacity := hlt
    simp only [sysexStep, hx', hd, if_true, writeXbuf_inside hlt', andThen_next, ← closeIfFull_setFilt]
    rfl
  · rw [sysexStep_end (s := s.setFilt f) hx, deliverSysex_eq]
    rfl
  · exact sysexStep_abort hx hd hb

/-- A FEED depends on the filter through its verdict on the byte alone. -/
theorem feed_setFilt (f : Option StatusMask) (hf : isStatus b = true → filterAccepts f b = filterAccepts s.filt b)
    (h : feed b s = .next t) : feed b (s.setFilt f) = .next (t.setFilt f) := by
  unfold feed
  rw [coreStep_setFilt f hf]
  exact sysexStep_setFilt f h

end

/-- Settles O39: the two filters give every status byte the same verdict. -/
theorem acceptingFilterIsLikeNoFilter : Obligations.AcceptingFilterIsLikeNoFilter := by
  intro s t p b i hall hi h
  obtain rfl := decode_single hi
  rw [exec_decodeByte] at h ⊢
  have hverdict : isStatus b = true → filterAccepts none b = filterAccepts (s.setFilt (some p)).filt b :=
    fun hb => (hall b hb).symm
  exact feed_setFilt (s := s.setFilt (some p)) none hverdict h

/-- The bit of a mask that a status byte reads is the one `maskOf` fills for it: 0x80 + `b[6:0]` is `b` (R18). -/
theorem ofNat_add_low_bits {b : Byte} (hb : isStatus b = true) :
    BitVec.ofNat 8 (128 + (b.extractLsb' 0 7).toNat) = b := by
  have hlow : 128 ≤ b.toNat := (isStatus_iff_le b).1 hb
  have hhigh : b.toNat < 256 := b.isLt
  apply BitVec.eq_of_toNat_eq
  simp only [BitVec.toNat_ofNat, BitVec.extractLsb'_toNat, Nat.shiftRight_zero]
  omega

/-- Settles O40. -/
theorem maskAnswersAsItsPredicate : Obligations.MaskAnswersAsItsPredicate := by
  intro p b hb
  have hlt : (b.extractLsb' 0 7).toNat < 128 := (b.extractLsb' 0 7).isLt
  rw [maskAccepts, maskOf, BitVec.getLsbD_ofFnLE, dif_pos hlt, ofNat_add_low_bits hb]

/-! ### Reset -/

/-- Settles O7: the values stand in the definition of the reset state. -/
theorem resetStateHasTheGivenValues : Obligations.ResetStateHasTheGivenValues :=
  ⟨rfl, rfl, rfl, rfl, rfl, rfl, rfl, rfl⟩

/-- Settles O8: nothing is in progress, OUT is empty, and the open capacity is a successor. -/
theorem invariantHoldsAtReset : Obligations.InvariantHoldsAtReset := by
  have hcap : 1 ≤ State.reset.capacity := Nat.succ_pos _
  refine ⟨?_, ?_, ?_, ?_⟩
  · simp [State.MsgInv, State.reset]
  · exact ⟨hcap, rfl, fun _ => rfl, fun _ => hcap, rfl⟩
  · exact rfl
  · simp [State.LinkInv, State.reset]

/-! ### Instances -/

/-- What a step of entry `k` of a bank can do: that entry steps as a single block and is written back. -/
theorem stepInstance_eq_some {bank bank' : List State} {k : Nat} (h : stepInstance bank k = some bank') :
    ∃ s t, bank[k]? = some s ∧ step s = .next t ∧ bank' = bank.set k t := by
  unfold stepInstance at h
  cases hk : bank[k]? with
  | none => simp [hk] at h
  | some s =>
    cases hs : step s with
    | next t => exact ⟨s, t, rfl, hs, by simpa [hk, hs, nextOf] using h.symm⟩
    | fault e => simp [hk, hs, nextOf] at h
    | refused e => simp [hk, hs, nextOf] at h

/-- Settles O51: the bank is written at the one place. -/
theorem instancesDoNotInterfere : Obligations.InstancesDoNotInterfere := by
  intro bank bank' k h
  obtain ⟨s, t, hk, hs, rfl⟩ := stepInstance_eq_some h
  have hlt : k < bank.length := (List.getElem?_eq_some_iff.1 hk).1
  exact ⟨⟨s, t, hk, hs, List.getElem?_set_self hlt⟩, fun j hj => List.getElem?_set_ne hj.symm⟩

end Sys2Proof.Machine

/-! PROOFS. The statements of 30_encoding.md: the fields of a byte and of a DAC word, decode against encode in both
directions, and the rows of the opcode table as a partition of the bytes. -/

namespace Sys2Proof.Machine

/-! ### The fields of a byte (R46, R47) -/

@[simp] theorem payloadOf_dataByte (payload : BitVec 7) : payloadOf (dataByte payload) = payload :=
  BitVec.extractLsb'_append_eq_right

theorem statusByte_toNat (cmd3 : BitVec 3) (low : BitVec 4) :
    (statusByte cmd3 low).toNat = 128 + cmd3.toNat * 16 + low.toNat := by
  have hfields : (cmd3 ++ low).toNat = cmd3.toNat * 16 + low.toNat := toNat_append_sum _ _
  have hbyte : (statusByte cmd3 low).toNat = 1 * 128 + (cmd3 ++ low).toNat := toNat_append_sum _ _
  omega

@[simp] theorem lowOf_statusByte (cmd3 : BitVec 3) (low : BitVec 4) : lowOf (statusByte cmd3 low) = low := by
  apply BitVec.eq_of_toNat_eq
  simp only [lowOf, BitVec.extractLsb'_toNat, Nat.shiftRight_zero, statusByte_toNat]
  omega

@[simp] theorem cmd3Of_statusByte (cmd3 : BitVec 3) (low : BitVec 4) : cmd3Of (statusByte cmd3 low) = cmd3 := by
  apply BitVec.eq_of_toNat_eq
  simp only [cmd3Of, BitVec.extractLsb'_toNat, Nat.shiftRight_eq_div_pow, statusByte_toNat]
  omega

/-! ### One byte: the decoder and the encoder against the byte an instruction feeds -/

theorem decodeByte_dataByte (payload : BitVec 7) : decodeByte (dataByte payload) = .data payload := by
  have hbit : (dataByte payload).getLsbD 7 = false := isStatus_dataByte payload
  rw [decodeByte, if_pos hbit, payloadOf_dataByte]

/-- A status byte is decoded by its command field; the fields are read back as they were put in (R46, R52). -/
theorem decodeByte_statusByte (cmd3 : BitVec 3) (low : BitVec 4) :
    decodeByte (statusByte cmd3 low) =
      if cmd3 = 0#3 then .noteOff low
      else if cmd3 = 1#3 then .noteOn low
      else if cmd3 = 2#3 then .polyPressure low
      else if cmd3 = 3#3 then .controlChange low
      else if cmd3 = 4#3 then .programChange low
      else if cmd3 = 5#3 then .channelPressure low
      else if cmd3 = 6#3 then .pitchBend low
      else decodeSystem (statusByte cmd3 low) := by
  have hbit : (statusByte cmd3 low).getLsbD 7 = true := isStatus_statusByte cmd3 low
  simp [decodeByte, hbit]

theorem decodeByte_systemByte (sub : BitVec 4) : decodeByte (systemByte sub) = decodeSystem (systemByte sub) :=
  decodeByte_statusByte 0b111#3 sub

theorem decodeSystem_f2f3 (sub : BitVec 1) : decodeSystem (systemByte (0b001#3 ++ sub)) = .otherF2F3 sub := by
  revert sub
  decide

theorem decodeSystem_f4f5 (sub : BitVec 1) : decodeSystem (systemByte (0b010#3 ++ sub)) = .otherF4F5 sub := by
  revert sub
  decide

theorem decodeSystem_f8ff (sub : BitVec 3) : decodeSystem (systemByte (0b1#1 ++ sub)) = .otherF8FF sub := by
  revert sub
  decide

/-- With `fedByte_decodeByte`: the byte rows and the bytes stand in one-to-one correspondence (R52). -/
theorem decodeByte_of_fedByte {i : Instr} {b : Byte} (h : fedByte i = some b) : decodeByte b = i := by
  cases i with
  | data payload => cases h; exact decodeByte_dataByte payload
  | noteOff channel | noteOn channel | polyPressure channel | controlChange channel | programChange channel
  | channelPressure channel | pitchBend channel => cases h; exact decodeByte_statusByte _ channel
  | sysexStart | sysexEnd | otherF1 | otherF6 => cases h; exact decodeByte_systemByte _
  | otherF2F3 sub => cases h; exact (decodeByte_systemByte _).trans (decodeSystem_f2f3 sub)
  | otherF4F5 sub => cases h; exact (decodeByte_systemByte _).trans (decodeSystem_f4f5 sub)
  | otherF8FF sub => cases h; exact (decodeByte_systemByte _).trans (decodeSystem_f8ff sub)
  | dacWord => cases h

/-- The encoder writes the marker bit and the command field as one nibble. -/
theorem nibble_append_eq_statusByte {nibble : BitVec 4} {cmd3 : BitVec 3} (h : nibble = 0b1#1 ++ cmd3)
    (channel : BitVec 4) : (nibble ++ channel : Byte) = statusByte cmd3 channel := by
  rw [h]
  exact BitVec.append_assoc

/-- The encoding of a byte row is the byte its meaning feeds. -/
theorem encode_of_fedByte {i : Instr} {b : Byte} (h : fedByte i = some b) : encode i = [b] := by
  cases i with
  | data => cases h; rfl
  | noteOff channel | noteOn channel | polyPressure channel | controlChange channel | programChange channel
  | channelPressure channel | pitchBend channel =>
    cases h; exact List.singleton_inj.2 (nibble_append_eq_statusByte (by rfl) channel)
  | sysexStart | sysexEnd | otherF1 | otherF6 => cases h; rfl
  | otherF2F3 sub | otherF4F5 sub | otherF8FF sub => cases h; revert sub; decide
  | dacWord => cases h

theorem encode_decodeByte (b : Byte) : encode (decodeByte b) = [b] :=
  encode_of_fedByte (fedByte_decodeByte b)

theorem decode_encode_of_fedByte {i : Instr} {b : Byte} (h : fedByte i = some b) : decode (encode i) = .ok i := by
  rw [encode_of_fedByte h]
  exact congrArg Except.ok (decodeByte_of_fedByte h)

theorem wellFormed_of_fedByte {i : Instr} {b : Byte} (h : fedByte i = some b) : i.wellFormed = true := by
  cases i with
  | dacWord => cases h
  | _ => rfl

/-! ### The one-bit codes of R58 -/

theorem channelCode_read (ch : ChannelSelect) :
    (if (channelCode ch).getLsbD 0 then .selector1 else .selector0) = ch := by
  cases ch <;> rfl

theorem bufferCode_read (buf : BufferEnable) : (if (bufferCode buf).getLsbD 0 then .on else .off) = buf := by
  cases buf <;> rfl

theorem gainCode_read (gain : Gain) : (if (gainCode gain).getLsbD 0 then .x1 else .x2) = gain := by
  cases gain <;> rfl

theorem shutdownCode_read (shdn : Shutdown) :
    (if (shutdownCode shdn).getLsbD 0 then .active else .shutdown) = shdn := by
  cases shdn <;> rfl

theorem channelCode_of_bit (bit : Bool) :
    channelCode (if bit then .selector1 else .selector0) = BitVec.ofBool bit := by
  cases bit <;> rfl

theorem bufferCode_of_bit (bit : Bool) : bufferCode (if bit then .on else .off) = BitVec.ofBool bit := by
  cases bit <;> rfl

theorem gainCode_of_bit (bit : Bool) : gainCode (if bit then .x1 else .x2) = BitVec.ofBool bit := by
  cases bit <;> rfl

theorem shutdownCode_of_bit (bit : Bool) :
    shutdownCode (if bit then .active else .shutdown) = BitVec.ofBool bit := by
  cases bit <;> rfl

/-! ### The DAC word (R50) -/

/-- The value field of a word, as the 16-bit operand it is decoded to, fits its 12 bits. -/
theorem valueFits_setWidth (field : BitVec 12) : valueFits (field.setWidth 16) = true := by
  have hlt : field.toNat < 4096 := field.isLt
  simp only [valueFits, BitVec.toNat_setWidth, decide_eq_true_eq]
  omega

theorem extract_setWidth_value (field : BitVec 12) : (field.setWidth 16).extractLsb' 0 12 = field := by
  ext j hj
  simp [hj, show j < 16 by omega]

/-- A value below 4096 loses nothing in the word's 12-bit field. -/
theorem setWidth_extract_value {value : Word} (h : valueFits value = true) :
    (value.extractLsb' 0 12).setWidth 16 = value := by
  have hlt : value.toNat < 4096 := by simpa [valueFits] using h
  apply BitVec.eq_of_toNat_eq
  simp only [BitVec.toNat_setWidth, BitVec.extractLsb'_toNat, Nat.shiftRight_zero]
  omega

/-- The bits of the left part of a concatenation stand above those of the right part. -/
theorem getLsbD_append_left {m n : Nat} (x : BitVec m) (y : BitVec n) (k : Nat) :
    (x ++ y).getLsbD (n + k) = x.getLsbD k := by
  simp [BitVec.getLsbD_append]

theorem getLsbD_append_right {m n k : Nat} (x : BitVec m) (y : BitVec n) (h : k < n) :
    (x ++ y).getLsbD k = y.getLsbD k := by
  simp [BitVec.getLsbD_append, h]

/-- Where format W puts its four one-bit fields (R50). -/
theorem packWord_bits (ch buf gain shdn : BitVec 1) (field : BitVec 12) :
    (packWord ch buf gain shdn field).getLsbD 15 = ch.getLsbD 0 ∧
    (packWord ch buf gain shdn field).getLsbD 14 = buf.getLsbD 0 ∧
    (packWord ch buf gain shdn field).getLsbD 13 = gain.getLsbD 0 ∧
    (packWord ch buf gain shdn field).getLsbD 12 = shdn.getLsbD 0 := by
  have hword {k : Nat} (h : k < 15) := getLsbD_append_right ch (buf ++ (gain ++ (shdn ++ field))) h
  have hbuf {k : Nat} (h : k < 14) := getLsbD_append_right buf (gain ++ (shdn ++ field)) h
  have hgain {k : Nat} (h : k < 13) := getLsbD_append_right gain (shdn ++ field) h
  refine ⟨getLsbD_append_left ch _ 0, ?_, ?_, ?_⟩
  · exact (hword (by decide)).trans (getLsbD_append_left buf _ 0)
  · exact ((hword (by decide)).trans (hbuf (by decide))).trans (getLsbD_append_left gain _ 0)
  · exact ((hword (by decide)).trans ((hbuf (by decide)).trans (hgain (by decide)))).trans
      (getLsbD_append_left shdn _ 0)

/-- What the decoder reads of a packed word is the five fields that were packed. -/
theorem decodeWord_packWord (ch buf gain shdn : BitVec 1) (field : BitVec 12) :
    decodeWord (packWord ch buf gain shdn field) =
      .dacWord (if ch.getLsbD 0 then .selector1 else .selector0) (if buf.getLsbD 0 then .on else .off)
        (if gain.getLsbD 0 then .x1 else .x2) (if shdn.getLsbD 0 then .active else .shutdown)
        (field.setWidth 16) := by
  have hvalue : (packWord ch buf gain shdn field).extractLsb' 0 12 = field := by
    apply BitVec.eq_of_toNat_eq
    simp only [BitVec.extractLsb'_toNat, Nat.shiftRight_zero, packWord_toNat]
    omega
  obtain ⟨hch, hbuf, hgain, hshdn⟩ := packWord_bits ch buf gain shdn field
  rw [decodeWord, hch, hbuf, hgain, hshdn, hvalue]

theorem toNat_ofBool_getLsbD (w : Word) (n : Nat) : (BitVec.ofBool (w.getLsbD n)).toNat = w.toNat / 2 ^ n % 2 := by
  rw [BitVec.toNat_ofBool, ← BitVec.testBit_toNat, Nat.toNat_testBit]

/-- Every word is the packing of its own bits (R133). -/
theorem packWord_of_bits (w : Word) :
    packWord (BitVec.ofBool (w.getLsbD 15)) (BitVec.ofBool (w.getLsbD 14)) (BitVec.ofBool (w.getLsbD 13))
      (BitVec.ofBool (w.getLsbD 12)) (w.extractLsb' 0 12) = w := by
  have hlt : w.toNat < 65536 := w.isLt
  apply BitVec.eq_of_toNat_eq
  simp only [packWord_toNat, toNat_ofBool_getLsbD, BitVec.extractLsb'_toNat, Nat.shiftRight_zero]
  omega

theorem wireBytes_of_bytes (hi lo : Byte) : wireBytes (hi ++ lo) = [hi, lo] := by
  have hhi : (hi ++ lo).extractLsb' 8 8 = hi := BitVec.extractLsb'_append_eq_left
  have hlo : (hi ++ lo).extractLsb' 0 8 = lo := BitVec.extractLsb'_append_eq_right
  rw [wireBytes, hhi, hlo]

theorem decode_wireBytes (w : Word) : decode (wireBytes w) = .ok (decodeWord w) := by
  rw [wireBytes, decode, wireBytes_append]

theorem encode_decodeWord (w : Word) : encode (decodeWord w) = wireBytes w := by
  rw [decodeWord, encode, channelCode_of_bit, bufferCode_of_bit, gainCode_of_bit, shutdownCode_of_bit,
    extract_setWidth_value, packWord_of_bits]

theorem decode_encode_dacWord (ch : ChannelSelect) (buf : BufferEnable) (gain : Gain) (shdn : Shutdown)
    {value : Word} (h : valueFits value = true) :
    decode (encode (.dacWord ch buf gain shdn value)) = .ok (.dacWord ch buf gain shdn value) := by
  rw [encode, decode_wireBytes, decodeWord_packWord, channelCode_read, bufferCode_read, gainCode_read,
    shutdownCode_read, setWidth_extract_value h]

/-! ### Decode and encode -/

/-- The only two ways to decode: one byte as an input byte, two as a DAC word (log 8). -/
theorem decode_eq_ok_iff {bs : List Byte} {i : Instr} :
    decode bs = .ok i ↔
      (∃ b, bs = [b] ∧ i = decodeByte b) ∨ ∃ hi lo, bs = [hi, lo] ∧ i = decodeWord (hi ++ lo) := by
  match bs with
  | [] => simp [decode]
  | [b] => simp [decode, eq_comm]
  | [hi, lo] => simp [decode, eq_comm]
  | _ :: _ :: _ :: _ => simp [decode]

/-- Settles O4, row by row: a byte row's encoding is the byte it feeds, and the DAC word's fields are read back. -/
theorem decodeAfterEncode : Obligations.DecodeAfterEncode := by
  intro i hwf
  cases i with
  | dacWord ch buf gain shdn value => exact decode_encode_dacWord ch buf gain shdn hwf
  | _ => exact decode_encode_of_fedByte rfl

/-- Settles O5, by the two lengths that decode. -/
theorem encodeAfterDecode : Obligations.EncodeAfterDecode := by
  intro bs i h
  obtain ⟨b, rfl, rfl⟩ | ⟨hi, lo, rfl, rfl⟩ := decode_eq_ok_iff.1 h
  · exact encode_decodeByte b
  · rw [encode_decodeWord, wireBytes_of_bytes]

/-- Settles O1: the model's decoder evaluates each of the words. -/
theorem writtenWordsDecode : Obligations.WrittenWordsDecode :=
  ⟨rfl, rfl, rfl, rfl, rfl, rfl, rfl, rfl⟩

/-- Settles O3. -/
theorem decodeRefusesByLengthAlone : Obligations.DecodeRefusesByLengthAlone := by
  intro bs
  refine ⟨⟨?_, ?_⟩, ?_⟩
  · rintro ⟨i, h⟩
    obtain ⟨b, rfl, -⟩ | ⟨hi, lo, rfl, -⟩ := decode_eq_ok_iff.1 h
    · exact .inl rfl
    · exact .inr rfl
  · rintro (h | h)
    · obtain ⟨b, rfl⟩ := List.length_eq_one_iff.1 h
      exact ⟨_, rfl⟩
    · obtain ⟨hi, lo, rfl⟩ := List.length_eq_two.1 h
      exact ⟨_, rfl⟩
  · intro i h
    obtain ⟨b, -, rfl⟩ | ⟨hi, lo, -, rfl⟩ := decode_eq_ok_iff.1 h
    · exact wellFormed_of_fedByte (fedByte_decodeByte b)
    · exact valueFits_setWidth _

/-! ### The opcode table (R52) -/

/-- `Laws.FitsRow`, said of every instruction. -/
theorem fitsRow (i : Instr) : Laws.FitsRow.Statement i :=
  match i with
  | .data payload => Laws.FitsRow.data payload
  | .noteOff channel => Laws.FitsRow.noteOff channel
  | .noteOn channel => Laws.FitsRow.noteOn channel
  | .polyPressure channel => Laws.FitsRow.polyPressure channel
  | .controlChange channel => Laws.FitsRow.controlChange channel
  | .programChange channel => Laws.FitsRow.programChange channel
  | .channelPressure channel => Laws.FitsRow.channelPressure channel
  | .pitchBend channel => Laws.FitsRow.pitchBend channel
  | .sysexStart => Laws.FitsRow.sysexStart
  | .sysexEnd => Laws.FitsRow.sysexEnd
  | .otherF1 => Laws.FitsRow.otherF1
  | .otherF2F3 sub => Laws.FitsRow.otherF2F3 sub
  | .otherF4F5 sub => Laws.FitsRow.otherF4F5 sub
  | .otherF6 => Laws.FitsRow.otherF6
  | .otherF8FF sub => Laws.FitsRow.otherF8FF sub
  | .dacWord channel buf gain shdn value => Laws.FitsRow.dacWord channel buf gain shdn value

/-- The row of a byte's decoded instruction covers the byte. -/
theorem decodeByte_fits_row (b : Byte) :
    ∃ r ∈ byteRows, r.covers b = true ∧ (decodeByte b).mnemonic = r.mnemonic := by
  obtain ⟨b', r, hr, henc, hname, hcov⟩ | ⟨-, hlen⟩ := fitsRow (decodeByte b)
  · rw [encode_decodeByte] at henc
    cases henc
    exact ⟨r, hr, hcov, hname.symm⟩
  · simp [encode_decodeByte] at hlen

/-- Two rows that cover one byte prescribe the same bits where both prescribe any. -/
theorem patterns_agree_of_covers {r r' : ByteRow} {b : Byte} (h : r.covers b = true) (h' : r'.covers b = true) :
    r.pattern &&& r'.mask = r'.pattern &&& r.mask := by
  have hr : b &&& r.mask = r.pattern := by simpa [ByteRow.covers] using h
  have hr' : b &&& r'.mask = r'.pattern := by simpa [ByteRow.covers] using h'
  rw [← hr, ← hr', BitVec.and_assoc, BitVec.and_assoc, BitVec.and_comm r.mask]

/-- Any two different rows of the table differ in a bit that both prescribe. -/
theorem byteRows_eq_of_patterns_agree :
    ∀ r ∈ byteRows, ∀ r' ∈ byteRows, r.pattern &&& r'.mask = r'.pattern &&& r.mask → r' = r := by
  decide

/-- Settles O2. -/
theorem everyByteHasExactlyOneRow : Obligations.EveryByteHasExactlyOneRow := by
  intro b
  obtain ⟨r, hr, hcov, hname⟩ := decodeByte_fits_row b
  exact ⟨r, hr, hcov, hname, fun r' hr' hcov' =>
    byteRows_eq_of_patterns_agree r hr r' hr' (patterns_agree_of_covers hcov hcov')⟩

end Sys2Proof.Machine

/-! PROOFS. The statements of 40_classifier.md: the classifier's functions of a byte, the operations that answer with
them, and the whole result of a FEED for each byte class. -/

namespace Sys2Proof.Machine

/-! ### The status/data split and the channel (R71, R74, R87) -/

/-- Settles O10: IS_STATUS is the byte's high bit and IS_DATA its negation. -/
theorem classifierSplitsOnTheHighBit : Obligations.ClassifierSplitsOnTheHighBit := by
  intro b
  have hstatus : isStatus b = decide (128 ≤ b.toNat) := by
    rw [Bool.eq_iff_iff, isStatus_iff_le, decide_eq_true_iff]
  refine ⟨hstatus, ?_⟩
  rw [isData_eq_not_isStatus, hstatus, ← decide_not]
  exact decide_eq_decide.2 Nat.not_le

/-- Settles O11. -/
theorem channelIsTheLowNibble : Obligations.ChannelIsTheLowNibble := by
  intro b
  rw [channelOf, lowOf, BitVec.extractLsb'_toNat, Nat.shiftRight_zero]

/-! ### COMMAND_OF and IS_COMMAND (R73, R75) -/

theorem commandOf_of_isData {b : Byte} (h : isData b = true) : commandOf b = .other := by
  rw [commandOf, commandOfWith, if_pos h]

/-- CMD_CODE as a ladder over the code's value; `system` stands for the answer at the system code 7 (R6, D28). -/
theorem cmdCode_eq_ladder (c : BitVec 3) (system : Command) :
    (if c ≠ 7#3 then cmdCode c else system) =
      if c.toNat < 1 then .noteOff
      else if c.toNat < 2 then .noteOn
      else if c.toNat < 3 then .polyPressure
      else if c.toNat < 4 then .controlChange
      else if c.toNat < 5 then .programChange
      else if c.toNat < 6 then .channelPressure
      else if c.toNat < 7 then .pitchBend
      else system := by
  obtain ⟨n, hn⟩ := c
  interval_cases n <;> rfl

/-- The command fields of the status bytes rise in blocks of sixteen from 0x80 on (R46). -/
theorem cmd3Of_lt_iff {b : Byte} (h : 128 ≤ b.toNat) (k : Nat) :
    (cmd3Of b).toNat < k ↔ b.toNat < 128 + 16 * k := by
  have hhigh : b.toNat < 256 := b.isLt
  simp only [cmd3Of, BitVec.extractLsb'_toNat, Nat.shiftRight_eq_div_pow]
  omega

/-- Settles O12: a data byte is `Other`, and the ladder of the codes is the ladder of the ranges. -/
theorem commandFollowsTheByteValue : Obligations.CommandFollowsTheByteValue := by
  intro b
  obtain ⟨hstatus, hdata⟩ := classifierSplitsOnTheHighBit b
  by_cases hlt : b.toNat < 128
  · rw [if_pos hlt, commandOf_of_isData (hdata.trans (decide_eq_true hlt))]
  · have hle : 128 ≤ b.toNat := Nat.not_lt.1 hlt
    have hnot : ¬ isData b = true := by simp [hdata, hle]
    rw [if_neg hlt, commandOf, commandOfWith, if_neg hnot, cmdCode_eq_ladder]
    simp only [cmd3Of_lt_iff hle, ← BitVec.toNat_inj]
    rfl

/-- Settles O13. -/
theorem isCommandComparesTheCommand : Obligations.IsCommandComparesTheCommand := by
  intro b c
  refine ⟨rfl, ?_, ?_⟩
  · rw [isCommand_sysExStart, decide_eq_true_iff]
  · rw [isCommand_sysExEnd, decide_eq_true_iff]

/-! ### The combinational operations (R70, R130) -/

/-- Settles O14: each of the five is a `reply`. -/
theorem classifierOperationsAnswer : Obligations.ClassifierOperationsAnswer := fun _ _ s =>
  ⟨reply_eq _ s, reply_eq _ s, reply_eq _ s, reply_eq _ s, reply_eq _ s⟩

/-- Settles O15: each combinational operation, the two forms of ENCODE included, is a `reply` with a value of its
operands. -/
theorem combinationalFunctionsTouchNothing : Obligations.CombinationalFunctionsTouchNothing := by
  intro o ho
  cases o with
  | reset | feed | setFilter | setMsgCb | setSysexCb => cases ho
  | isStatus | isData | commandOf | channelOf | isCommand | encode | codecWord => exact ⟨_, fun s => reply_eq _ s⟩

/-! ### FEED of a data byte (R76) -/

theorem ne_of_isData {b c : Byte} (hb : isData b = true) (hc : isData c = false) : b ≠ c :=
  ne_of_apply_ne isData (by simp [hb, hc])

/-- The append of the accumulator, byte by byte: the new last place holds the byte and every other index reads as
before. -/
theorem Memory.read_append_length {m : Memory} (h : m.contiguous = true) (b : Byte) :
    Memory.read (m ++ [(m.length, b)]) m.length = some b ∧
      ∀ a, a ≠ m.length → Memory.read (m ++ [(m.length, b)]) a = m.read a := by
  rw [← Memory.write_length h b]
  exact ⟨Memory.read_write_same m _ b, fun _ ha => Memory.read_write_other m b ha⟩

/-- The events of a FEED of a data byte: the message's at the second data byte, then the buffer's at the last place. -/
theorem feed_data_out {b : Byte} {s t : State} (hx : s.XbufInv) (hd : isData b = true) (h : feed b s = .next t) :
    t.out = s.out ++ (if s.pstate = .data2 then msgEvents s b else []) ++
      (if s.xstate = .accumulating ∧ s.xlen + 1 = s.capacity then sysexEvents s (s.xbuf.bytes ++ [b]) else []) := by
  obtain ⟨t', h', -, -, -, hout, -⟩ := feed_result (b := b) (.inl hx)
  cases h.symm.trans h'
  have hF7 : b ≠ 0xF7#8 := ne_of_isData hd rfl
  simp only [hout, coreStep_out, hd, hF7, and_true, and_false, true_and, if_false]

/-- Settles O32: `feed_result`, read for a data byte. -/
theorem dataByteResult : Obligations.DataByteResult := by
  intro payload s hx
  have hd : isData (dataByte payload) = true := by simp [isData_eq_not_isStatus]
  have hF0 : dataByte payload ≠ 0xF0#8 := ne_of_isData hd rfl
  obtain ⟨hstatus, hdata1, hdata2⟩ := coreStep_data s hd
  obtain ⟨t, ht, hframe, hp, hm, -, hignore, -, -, hfull, happend⟩ := feed_result (b := dataByte payload) (.inl hx)
  have hout := feed_data_out hx hd ht
  obtain ⟨-, hcon, -⟩ := hx
  rw [← hp, ← hm] at hstatus hdata1 hdata2
  refine ⟨t, ht, hframe, hstatus, hdata1, hdata2, fun hs => ?_, fun hs hlt => ?_, fun hs => hfull hs hd, hout⟩
  · exact (hignore hs hF0).imp_right fun htb a => congrArg (Memory.read · a) htb
  · obtain ⟨htx, htb⟩ := happend hs hd hlt
    rw [htb]
    exact ⟨htx, Memory.read_append_length hcon _⟩

/-! ### FEED of a status byte (R77-R86) -/

/-- A FEED of a status byte completes in every state, whatever the buffer: the core parser takes the byte, an open frame
is closed, and only 0xF7 delivers it (R92-R94, R96, R111-R116). -/
theorem feed_status_result {b : Byte} (s : State) (h : isStatus b = true) :
    ∃ t, feed b s = .next t ∧ FeedFrame s t ∧ CoreTakesStatus b s t ∧
      (s.xstate = .idle → b ≠ 0xF0#8 → t.xstate = .idle ∧ t.xbuf = s.xbuf) ∧
      (s.xstate = .idle → b = 0xF0#8 → t.xstate = .accumulating ∧ t.xbuf = []) ∧
      (s.xstate = .accumulating → t.xstate = .idle ∧ t.xbuf = []) ∧
      t.out = s.out ++ (if s.xstate = .accumulating ∧ b = 0xF7#8 then sysexEvents s s.xbuf.bytes else []) := by
  have hd : isData b = false := by simp [isData_eq_not_isStatus, h]
  obtain ⟨t, ht, hframe, hp, hm, hout, hignore, hopen, hclose, -⟩ := feed_result (s := s) (.inr hd)
  have hcore : CoreTakesStatus b s t := by
    simpa only [CoreTakesStatus, hp, hm] using coreStep_status s h
  refine ⟨t, ht, hframe, hcore, hignore, hopen, fun hs => hclose hs hd, ?_⟩
  simpa [coreStep_out, hd] using hout

/-- An instruction encoded in one byte feeds that byte. -/
theorem fedByte_of_encode {i : Instr} {b : Byte} (h : encode i = [b]) : fedByte i = some b := by
  cases hf : fedByte i with
  | some b' =>
    rw [encode_of_fedByte hf] at h
    exact congrArg some (List.singleton_inj.1 h)
  | none =>
    cases i with
    | dacWord => cases h
    | _ => cases hf

theorem decodeByte_of_isData {b : Byte} (h : isData b = true) : decodeByte b = .data (payloadOf b) := by
  have hbit : b.getLsbD 7 = false := by simpa [isData] using h
  rw [decodeByte, if_pos hbit]

/-- The twelve rows are encoded as their patterns say, and are none of the other three rows of the byte table. -/
theorem plainStatus_encode {i : Instr} {b : Byte} (h : PlainStatus i b) :
    encode i = [b] ∧ (∀ payload, i ≠ .data payload) ∧ i ≠ .sysexStart ∧ i ≠ .sysexEnd := by
  obtain ⟨n, rfl, rfl⟩ | ⟨n, rfl, rfl⟩ | ⟨n, rfl, rfl⟩ | ⟨n, rfl, rfl⟩ | ⟨n, rfl, rfl⟩ | ⟨n, rfl, rfl⟩ |
    ⟨n, rfl, rfl⟩ | ⟨rfl, rfl⟩ | ⟨n, rfl, rfl⟩ | ⟨n, rfl, rfl⟩ | ⟨rfl, rfl⟩ | ⟨n, rfl, rfl⟩ := h <;>
    simp [encode]

/-- The byte of one of the twelve rows is the one its instruction feeds: a status byte that neither opens a frame nor
ends one. Each exception would decode to one of the other three rows. -/
theorem plainStatus_fedByte {i : Instr} {b : Byte} (h : PlainStatus i b) :
    fedByte i = some b ∧ isStatus b = true ∧ b ≠ 0xF0#8 ∧ b ≠ 0xF7#8 := by
  obtain ⟨henc, hdata, hstart, hend⟩ := plainStatus_encode h
  have hfed : fedByte i = some b := fedByte_of_encode henc
  have hdec : decodeByte b = i := decodeByte_of_fedByte hfed
  refine ⟨hfed, ?_, ?_, ?_⟩
  · by_contra hb
    have hd : isData b = true := by simpa [isData_eq_not_isStatus] using hb
    exact hdata _ (hdec.symm.trans (decodeByte_of_isData hd))
  · rintro rfl
    exact hstart hdec.symm
  · rintro rfl
    exact hend hdec.symm

/-- Settles O33: `feed_status_result` for a byte that is neither 0xF0 nor 0xF7. -/
theorem plainStatusByteResult : Obligations.PlainStatusByteResult := by
  intro i b s h
  obtain ⟨hfed, hb, hF0, hF7⟩ := plainStatus_fedByte h
  obtain ⟨t, ht, hframe, hcore, hignore, -, hclose, hout⟩ := feed_status_result s hb
  refine ⟨t, (exec_eq_feed hfed s).trans ht, hframe, hcore, fun hs => ?_, hclose, by simpa [hF7] using hout⟩
  exact (hignore hs hF0).imp_right fun htb a => congrArg (Memory.read · a) htb

/-- Settles O34: `feed_status_result` for 0xF0. -/
theorem sysexStartResult : Obligations.SysexStartResult := by
  intro s
  obtain ⟨t, ht, hframe, hcore, -, hopen, hclose, hout⟩ := feed_status_result (b := 0xF0#8) s rfl
  exact ⟨t, ht, hframe, hcore, fun hs => hopen hs rfl, hclose, by simpa using hout⟩

/-- Settles O35: `feed_status_result` for 0xF7. -/
theorem sysexEndResult : Obligations.SysexEndResult := by
  intro s
  obtain ⟨t, ht, hframe, hcore, hignore, -, hclose, hout⟩ := feed_status_result (b := 0xF7#8) s rfl
  refine ⟨t, ht, hframe, hcore, fun hs => ?_, hclose, by simpa using hout⟩
  exact (hignore hs (by decide)).imp_right fun htb a => congrArg (Memory.read · a) htb

end Sys2Proof.Machine

/-! PROOFS. The statements of 41_core_parser.md: the rows of the core parser under FEED, sequences of bytes as runs of the
core parser alone, and what a missing consumer changes. -/

namespace Sys2Proof.Machine

/-! ### The events of OUT by their kind -/

@[simp] theorem State.setPState_messages (s : State) (p : PState) : (s.setPState p).messages = s.messages := rfl
@[simp] theorem State.setMsg_messages (s : State) (m : Msg) : (s.setMsg m).messages = s.messages := rfl
@[simp] theorem State.setOut_messages (s : State) (es : List Event) :
    (s.setOut es).messages = es.filter Event.isMsgReady := rfl
@[simp] theorem State.setOut_buffers (s : State) (es : List Event) :
    (s.setOut es).buffers = es.filter Event.isSysExReady := rfl

@[simp] theorem msgEvents_filter_isMsgReady (s : State) (b : Byte) :
    (msgEvents s b).filter Event.isMsgReady = msgEvents s b := by
  cases h : s.msgCb <;> simp [msgEvents, h, Event.isMsgReady]

/-- The event of a completed message is one of the messages. -/
theorem State.setOut_append_msgEvents_messages (u s : State) (b : Byte) :
    (u.setOut (s.out ++ msgEvents s b)).messages = s.messages ++ msgEvents s b := by
  rw [State.setOut_messages, List.filter_append, msgEvents_filter_isMsgReady, State.messages]

@[simp] theorem msgEvents_filter_isSysExReady (s : State) (b : Byte) :
    (msgEvents s b).filter Event.isSysExReady = [] := by
  cases h : s.msgCb <;> simp [msgEvents, h, Event.isSysExReady]

@[simp] theorem sysexEvents_filter_isMsgReady (s : State) (bytes : List Byte) :
    (sysexEvents s bytes).filter Event.isMsgReady = [] := by
  cases h : s.sxCb <;> simp [sysexEvents, h, Event.isMsgReady]

@[simp] theorem sysexEvents_filter_isSysExReady (s : State) (bytes : List Byte) :
    (sysexEvents s bytes).filter Event.isSysExReady = sysexEvents s bytes := by
  cases h : s.sxCb <;> simp [sysexEvents, h, Event.isSysExReady]

/-! ### The rows of the core parser, as equations -/

section
variable {b : Byte} {s : State}

theorem isStatus_of_isData (h : isData b = true) : isStatus b = false := by
  simpa [isData_eq_not_isStatus] using h

theorem isData_of_isStatus (h : isStatus b = true) : isData b = false := by
  simp [isData_eq_not_isStatus, h]

/-- R91. -/
theorem coreStep_ignores_data (hp : s.pstate = .status) (hd : isData b = true) : coreStep b s = s := by
  simp [coreStep, hp, isStatus_of_isData hd]

/-- R92. -/
theorem coreStep_rejects (hp : s.pstate = .status) (hr : s.rejects b) : coreStep b s = s := by
  simp [coreStep, hp, (rejects_iff s b).1 hr]

/-- R93. -/
theorem coreStep_accepts (hp : s.pstate = .status) (hb : isStatus b = true) (ha : s.accepts b) :
    coreStep b s = (s.setMsg ⟨b, s.msg.data1, s.msg.data2⟩).setPState .data1 := by
  simp [coreStep, hp, hb, (accepts_iff s b).1 ha]

/-- R94 and R96: the byte is swallowed. -/
theorem coreStep_aborts (hp : s.pstate ≠ .status) (hb : isStatus b = true) : coreStep b s = s.setPState .status := by
  have hd : isData b = false := isData_of_isStatus hb
  cases hq : s.pstate with
  | status => exact absurd hq hp
  | data1 => simp [coreStep, hq, hd]
  | data2 => simp [coreStep, hq, hd]

/-- R95. -/
theorem coreStep_stores_data1 (hp : s.pstate = .data1) (hd : isData b = true) :
    coreStep b s = (s.setMsg ⟨s.msg.status, b, s.msg.data2⟩).setPState .data2 := by
  simp [coreStep, hp, hd]

/-- R97 and R100. -/
theorem coreStep_delivers (hp : s.pstate = .data2) (hd : isData b = true) :
    coreStep b s =
      ((s.setMsg ⟨s.msg.status, s.msg.data1, b⟩).setPState .status).setOut (s.out ++ msgEvents s b) := by
  simp [coreStep, hp, hd, deliverMsg_eq, msgEvents]

end

/-! ### What the core parser reads -/

section
variable {b : Byte} {s s' : State}

/-- The core parser's state and slot come from PSTATE, MSG and FILT: neither consumer has a say (R90, R100). -/
theorem coreStep_congr (hp : s'.pstate = s.pstate) (hm : s'.msg = s.msg) (hf : s'.filt = s.filt) :
    (coreStep b s').pstate = (coreStep b s).pstate ∧ (coreStep b s').msg = (coreStep b s).msg := by
  cases hs : s.pstate with
  | status =>
    rw [hs] at hp
    simp only [coreStep, hs, hp, hm, hf]
    split <;> simp [hs, hp, hm]
  | data1 =>
    rw [hs] at hp
    simp only [coreStep, hs, hp, hm]
    split <;> simp [hm]
  | data2 =>
    rw [hs] at hp
    simp only [coreStep, hs, hp, hm, deliverMsg_eq]
    split <;> simp [hm]

theorem coreStep_messages (b : Byte) (s : State) :
    (coreStep b s).messages = s.messages ++ (if s.pstate = .data2 ∧ isData b = true then msgEvents s b else []) := by
  simp only [State.messages, coreStep_out, List.filter_append]
  split <;> simp

@[simp] theorem coreStep_buffers (b : Byte) (s : State) : (coreStep b s).buffers = s.buffers := by
  simp only [State.buffers, coreStep_out, List.filter_append]
  split <;> simp

end

/-! ### What the accumulator reads and writes -/

/-- The events of a delivery by the accumulator, if there is one. -/
def deliveryEvents (d : Option (List Byte)) (s : State) : List Event := d.elim [] (sysexEvents s)

/-- What the accumulator can leave: XSTATE and XBUF written, at most one delivery added to OUT. -/
def accumulated (x : XState) (m : Memory) (d : Option (List Byte)) (s : State) : State :=
  ((s.setXbuf m).setXState x).setOut (s.out ++ deliveryEvents d s)

section
variable (x : XState) (m : Memory) (d : Option (List Byte)) (s : State)

@[simp] theorem accumulated_pstate : (accumulated x m d s).pstate = s.pstate := rfl
@[simp] theorem accumulated_msg : (accumulated x m d s).msg = s.msg := rfl
@[simp] theorem accumulated_xstate : (accumulated x m d s).xstate = x := rfl
@[simp] theorem accumulated_xbuf : (accumulated x m d s).xbuf = m := rfl

@[simp] theorem accumulated_messages : (accumulated x m d s).messages = s.messages := by
  cases d <;> simp [accumulated, deliveryEvents, State.messages]

@[simp] theorem accumulated_buffers : (accumulated x m d s).buffers = s.buffers ++ deliveryEvents d s := by
  cases d <;> simp [accumulated, deliveryEvents, State.buffers]

/-- Without a consumer a delivery adds no event (R118). -/
theorem deliveryEvents_of_sxCb_none {s : State} (h : s.sxCb = none) : deliveryEvents d s = [] := by
  cases d <;> simp [deliveryEvents, sysexEvents, h]

/-- The events of a delivery depend on the registered consumer alone. -/
theorem deliveryEvents_congr {s s' : State} (h : s'.sxCb = s.sxCb) : deliveryEvents d s' = deliveryEvents d s := by
  cases d <;> simp [deliveryEvents, sysexEvents, h]

/-- With nothing handed over, OUT stays as it was. -/
theorem accumulated_none : accumulated x m none s = (s.setXbuf m).setXState x := by
  simp [accumulated, deliveryEvents, State.setOut, State.setXState, State.setXbuf]

theorem closeFrame_eq_accumulated : closeFrame s = accumulated .idle [] none s := by
  rw [closeFrame_eq, accumulated_none]

theorem closeFrame_deliverSysex_eq_accumulated :
    closeFrame (deliverSysex s) = accumulated .idle [] (some s.xbuf.bytes) s := by
  rw [deliverSysex_eq]
  rfl

/-- The end of an append: the buffer `m` is delivered if it is full (R113). -/
theorem closeIfFull_setXbuf :
    closeIfFull (s.setXbuf m) =
      if m.length = s.capacity then accumulated .idle [] (some m.bytes) s else accumulated s.xstate m none s := by
  have hfull : bufferFull (s.setXbuf m) = decide (m.length = s.capacity) := rfl
  simp only [closeIfFull, hfull, decide_eq_true_eq]
  split
  · rw [closeFrame_deliverSysex_eq_accumulated]
    rfl
  · rw [accumulated_none]
    rfl

end

section
variable {b : Byte} {s t : State}

theorem sysexStep_data (hx : s.xstate = .accumulating) (hd : isData b = true) (hlt : s.xlen < s.capacity) :
    sysexStep b s = .next (closeIfFull (s.setXbuf (s.xbuf.write s.xlen b))) := by
  simp [sysexStep, hx, hd, writeXbuf_inside hlt]

/-- Where the accumulator answers, it does so in every state with the same capacity, XSTATE and XBUF, and writes there the
same XSTATE and XBUF and hands over the same bytes (R110, R118, R119). -/
theorem sysexStep_uniform (h : sysexStep b s = .next t) :
    ∃ x m d, ∀ s' : State, s'.capacity = s.capacity → s'.xstate = s.xstate → s'.xbuf = s.xbuf →
      sysexStep b s' = .next (accumulated x m d s') := by
  obtain ⟨hx, hb, -⟩ | ⟨hx, rfl, -⟩ | ⟨hx, hd, hlt, -⟩ | ⟨hx, rfl, -⟩ | ⟨hx, hd, hb, -⟩ := sysexStep_cases h
  · refine ⟨s.xstate, s.xbuf, none, fun s' _ hx' hm' => ?_⟩
    rw [sysexStep_idle_other (hx'.trans hx) hb, ← hx', ← hm', accumulated_none]
    rfl
  · refine ⟨.accumulating, [], none, fun s' _ hx' _ => ?_⟩
    rw [sysexStep_idle_start (hx'.trans hx), accumulated_none]
  · have happend : ∀ s' : State, s'.capacity = s.capacity → s'.xstate = s.xstate → s'.xbuf = s.xbuf →
        sysexStep b s' = .next (closeIfFull (s'.setXbuf (s.xbuf.write s.xlen b))) := by
      intro s' hc' hx' hm'
      have hl' : s'.xlen = s.xlen := congrArg List.length hm'
      rw [sysexStep_data (hx'.trans hx) hd (by omega), hl', hm']
    by_cases hfull : (s.xbuf.write s.xlen b).length = s.capacity
    · refine ⟨.idle, [], some (s.xbuf.write s.xlen b).bytes, fun s' hc' hx' hm' => ?_⟩
      rw [happend s' hc' hx' hm', closeIfFull_setXbuf, if_pos (hfull.trans hc'.symm)]
    · refine ⟨s.xstate, s.xbuf.write s.xlen b, none, fun s' hc' hx' hm' => ?_⟩
      rw [happend s' hc' hx' hm', closeIfFull_setXbuf, hc', if_neg hfull, hx']
  · refine ⟨.idle, [], some s.xbuf.bytes, fun s' _ hx' hm' => ?_⟩
    rw [sysexStep_end (hx'.trans hx), hm']
    rfl
  · refine ⟨.idle, [], none, fun s' _ hx' _ => ?_⟩
    rw [sysexStep_abort (hx'.trans hx) hd hb, ← closeFrame_eq, closeFrame_eq_accumulated]

theorem sysexStep_messages (h : sysexStep b s = .next t) : t.messages = s.messages := by
  obtain ⟨x, m, d, hu⟩ := sysexStep_uniform h
  cases h.symm.trans (hu s rfl rfl rfl)
  exact accumulated_messages x m d s

end

/-! ### A missing consumer (R100, R118) -/

section
variable {b : Byte} {s s' t : State}

theorem feed_messages (h : feed b s = .next t) :
    t.messages = s.messages ++ (if s.pstate = .data2 ∧ isData b = true then msgEvents s b else []) :=
  (sysexStep_messages h).trans (coreStep_messages b s)

/-- Without a consumer a completed message adds no event (R100). -/
theorem feed_messages_of_msgCb_none (hn : s.msgCb = none) (h : feed b s = .next t) : t.messages = s.messages := by
  have hnone : msgEvents s b = [] := by rw [msgEvents, hn]; rfl
  rw [feed_messages h, hnone, ite_self, List.append_nil]

/-- A FEED in two states that differ in nothing either machine reads but the consumers: the same states and contents
after it, and the same bytes handed over, each to its own consumer. -/
theorem feed_uniform (hc : s'.capacity = s.capacity) (hp : s'.pstate = s.pstate) (hm : s'.msg = s.msg)
    (hx : s'.xstate = s.xstate) (hb : s'.xbuf = s.xbuf) (hf : s'.filt = s.filt) (h : feed b s = .next t) :
    ∃ t' d, feed b s' = .next t' ∧ t'.pstate = t.pstate ∧ t'.msg = t.msg ∧ t'.xstate = t.xstate ∧ t'.xbuf = t.xbuf ∧
      t.buffers = s.buffers ++ deliveryEvents d s ∧ t'.buffers = s'.buffers ++ deliveryEvents d s' := by
  obtain ⟨x, m, d, hu⟩ := sysexStep_uniform h
  cases h.symm.trans (hu (coreStep b s) rfl rfl rfl)
  obtain ⟨hp', hm'⟩ := coreStep_congr (b := b) hp hm hf
  refine ⟨_, d, hu (coreStep b s') (by simp [hc]) (by simp [hx]) (by simp [hb]), hp', hm', rfl, rfl, ?_, ?_⟩
  · rw [accumulated_buffers, coreStep_buffers, deliveryEvents_congr d (coreStep_sxCb b s)]
  · rw [accumulated_buffers, coreStep_buffers, deliveryEvents_congr d (coreStep_sxCb b s')]

end

/-- Settles O38: nothing but the events reads a consumer, and without one there is no event. -/
theorem missingConsumerLosesOnlyItsEvents : Obligations.MissingConsumerLosesOnlyItsEvents := by
  intro s t b i hi h
  obtain rfl := decode_single hi
  simp only [exec_decodeByte] at h ⊢
  constructor
  · obtain ⟨t', d, ht', hp, hm, hx, hb, hbuf, hbuf'⟩ :=
      feed_uniform (s := s) (s' := s.setMsgCb none) rfl rfl rfl rfl rfl rfl h
    have hmsg : t'.messages = (s.setMsgCb none).messages := feed_messages_of_msgCb_none rfl ht'
    exact ⟨t', ht', hp, hm, hx, hb, hbuf'.trans hbuf.symm, hmsg⟩
  · obtain ⟨t', d, ht', hp, hm, hx, hb, -, hbuf'⟩ :=
      feed_uniform (s := s) (s' := s.setSxCb none) rfl rfl rfl rfl rfl rfl h
    have hnone : t'.buffers = s.buffers := by
      rw [hbuf', deliveryEvents_of_sxCb_none d rfl, List.append_nil]
      rfl
    exact ⟨t', ht', hp, hm, hx, hb, (feed_messages ht').trans (feed_messages h).symm, hnone⟩

/-! ### FEED as the core parser sees it -/

/-- `t` is in all that the core parser reads, writes or emits as `s` is. -/
def CoreAgrees (s t : State) : Prop :=
  t.pstate = s.pstate ∧ t.msg = s.msg ∧ t.messages = s.messages ∧ t.filt = s.filt ∧ t.msgCb = s.msgCb

section
variable {b : Byte} {s t u : State}

theorem CoreAgrees.refl (s : State) : CoreAgrees s s := ⟨rfl, rfl, rfl, rfl, rfl⟩

theorem CoreAgrees.trans (h₁ : CoreAgrees s t) (h₂ : CoreAgrees t u) : CoreAgrees s u := by
  obtain ⟨hp₁, hm₁, hout₁, hf₁, hcb₁⟩ := h₁
  obtain ⟨hp₂, hm₂, hout₂, hf₂, hcb₂⟩ := h₂
  exact ⟨hp₂.trans hp₁, hm₂.trans hm₁, hout₂.trans hout₁, hf₂.trans hf₁, hcb₂.trans hcb₁⟩

theorem CoreAgrees.coreStep (b : Byte) (h : CoreAgrees s t) : CoreAgrees (coreStep b s) (coreStep b t) := by
  obtain ⟨hp, hm, hout, hf, hcb⟩ := h
  obtain ⟨hp', hm'⟩ := coreStep_congr (b := b) hp hm hf
  exact ⟨hp', hm', by simp only [coreStep_messages, msgEvents, hp, hm, hout, hcb], by simp [hf], by simp [hcb]⟩

theorem sysexStep_coreAgrees (h : sysexStep b s = .next t) : CoreAgrees s t := by
  obtain ⟨-, hp, hm, hf, hcb, -⟩ := sysexStep_frame h
  exact ⟨hp, hm, sysexStep_messages h, hf, hcb⟩

/-- To the core parser a FEED is its own step (R141). -/
theorem feed_coreAgrees (h : feed b s = .next t) : CoreAgrees (coreStep b s) t := sysexStep_coreAgrees h

end

/-- Settles O22: FEED is the core parser's step, and each row has its equation. -/
theorem coreParserFollowsItsTable : Obligations.CoreParserFollowsItsTable := by
  intro s b i hx hi
  obtain rfl := decode_single hi
  obtain ⟨t, ht⟩ := feed_answers (b := b) hx
  obtain ⟨hp, hm, hmsg, -⟩ := feed_coreAgrees ht
  refine ⟨t, (exec_decodeByte b s).trans ht, feed_frame ht, ?_⟩
  rw [hp, hm, hmsg]
  have habort : s.pstate ≠ .status → isStatus b = true → (coreStep b s).pstate = .status ∧
      (coreStep b s).msg = s.msg ∧ (coreStep b s).messages = s.messages := by
    intro hs hb
    simp [coreStep_aborts hs hb]
  refine ⟨fun hs hd => ?_, fun hs _ hr => ?_, fun hs hb ha => ?_, fun hs => habort (by simp [hs]), fun hs hd => ?_,
    fun hs => habort (by simp [hs]), fun hs hd => ?_⟩
  · simp [coreStep_ignores_data hs hd, hs]
  · simp [coreStep_rejects hs hr, hs]
  · simp [coreStep_accepts hs hb ha]
  · simp [coreStep_stores_data1 hs hd]
  · rw [coreStep_delivers hs hd]
    exact ⟨rfl, rfl, State.setOut_append_msgEvents_messages _ s b⟩

/-! ### Sequences of bytes -/

/-- The core parser run alone over a sequence of bytes. -/
def coreRun (bs : List Byte) (s : State) : State := bs.foldl (fun u b => coreStep b u) s

@[simp] theorem coreRun_nil (s : State) : coreRun [] s = s := rfl
theorem coreRun_cons (b : Byte) (bs : List Byte) (s : State) : coreRun (b :: bs) s = coreRun bs (coreStep b s) := rfl

/-- From a buffer in order every sequence of bytes is taken whole, and leaves the core parser where its own run over the
bytes does. -/
theorem steps_feeds_coreAgrees (bs : List Byte) {s u : State} (hx : s.XbufInv) (hu : CoreAgrees u s) :
    ∃ t, steps bs.length (s.withFeeds bs) = .next t ∧ CoreAgrees (coreRun bs u) t := by
  induction bs generalizing s u with
  | nil => exact ⟨s.withFeeds [], rfl, hu⟩
  | cons b bs ih =>
    have hxw : (s.withFeeds bs).XbufInv := hx
    obtain ⟨v, hv⟩ := feed_answers (b := b) hxw
    obtain ⟨-, -, -, -, -, hstim, -⟩ := feed_frame hv
    have hagree : CoreAgrees (coreStep b u) v :=
      (CoreAgrees.coreStep (t := s.withFeeds bs) b hu).trans (feed_coreAgrees hv)
    obtain ⟨t, ht, hcore⟩ := ih (feed_keeps_xbufInv hxw hv) hagree
    refine ⟨t, ?_, hcore⟩
    calc steps (bs.length + 1) (s.withFeeds (b :: bs))
        = steps bs.length v := by rw [steps_feeds_cons, hv, andThen_next]
      _ = steps bs.length (v.withFeeds bs) := congrArg (steps bs.length) (withFeeds_of_stim hstim)
      _ = .next t := ht

/-- The run over a sequence of bytes, register by register. -/
theorem steps_feeds_core (bs : List Byte) {s : State} (hx : s.XbufInv) :
    ∃ t, steps bs.length (s.withFeeds bs) = .next t ∧ t.pstate = (coreRun bs s).pstate ∧ t.msg = (coreRun bs s).msg ∧
      t.messages = (coreRun bs s).messages := by
  obtain ⟨t, ht, hp, hm, hmsg, -⟩ := steps_feeds_coreAgrees bs hx (.refl s)
  exact ⟨t, ht, hp, hm, hmsg⟩

section
variable {s : State}

/-- An accepted status byte and two data bytes in STATUS: R93, R95, R97. -/
theorem coreRun_message {b d1 d2 : Byte} (hp : s.pstate = .status) (hb : isStatus b = true) (ha : s.accepts b)
    (h1 : isData d1 = true) (h2 : isData d2 = true) :
    (coreRun [b, d1, d2] s).pstate = .status ∧ (coreRun [b, d1, d2] s).msg = ⟨b, d1, d2⟩ ∧
      (coreRun [b, d1, d2] s).messages =
        s.messages ++ (s.msgCb.map fun h => Event.msgReady h b d1 d2).toList := by
  rw [coreRun_cons, coreStep_accepts hp hb ha, coreRun_cons, coreStep_stores_data1 rfl h1, coreRun_cons,
    coreStep_delivers rfl h2, coreRun_nil]
  exact ⟨rfl, rfl, State.setOut_append_msgEvents_messages _ _ d2⟩

/-- Bytes that the core parser ignores one by one in STATUS it ignores all. -/
theorem coreRun_ignores {bs : List Byte} (h : ∀ b ∈ bs, coreStep b s = s) : coreRun bs s = s := by
  induction bs with
  | nil => rfl
  | cons b bs ih =>
    rw [List.forall_mem_cons] at h
    obtain ⟨hb, hbs⟩ := h
    rw [coreRun_cons, hb, ih hbs]

end

/-- Settles O24: the core parser's run over the three bytes. -/
theorem wellFormedMessageIsDeliveredOnce : Obligations.WellFormedMessageIsDeliveredOnce := by
  intro s b d1 d2 hx hp hb ha h1 h2
  obtain ⟨t, ht, htp, htm, htmsg⟩ := steps_feeds_core [b, d1, d2] hx
  obtain ⟨hrp, hrm, hrmsg⟩ := coreRun_message hp hb ha h1 h2
  exact ⟨t, ht, htp.trans hrp, htm.trans hrm, htmsg.trans hrmsg⟩

/-- Settles O23: the first status byte only brings the core parser back to STATUS, where data bytes are ignored and an
accepted status byte starts a message. -/
theorem interruptingStatusByteIsSwallowed : Obligations.InterruptingStatusByteIsSwallowed := by
  intro s b d1 d2 hx hp hb h1 h2
  have habort (bs : List Byte) : coreRun (b :: bs) s = coreRun bs (s.setPState .status) := by
    rw [coreRun_cons, coreStep_aborts hp hb]
  constructor
  · obtain ⟨t, ht, htp, htm, htmsg⟩ := steps_feeds_core [b, d1, d2] hx
    have hignored : coreRun [b, d1, d2] s = s.setPState .status := by
      rw [habort]
      refine coreRun_ignores fun d hd => coreStep_ignores_data rfl ?_
      obtain rfl | rfl : d = d1 ∨ d = d2 := by simpa using hd
      · exact h1
      · exact h2
    rw [hignored] at htp htm htmsg
    exact ⟨t, ht, htp, htm, htmsg⟩
  · intro b' hb' ha'
    obtain ⟨t, ht, htp, htm, htmsg⟩ := steps_feeds_core [b, b', d1, d2] hx
    obtain ⟨hrp, hrm, hrmsg⟩ := coreRun_message (s := s.setPState .status) rfl hb' ha' h1 h2
    rw [habort] at htp htm htmsg
    exact ⟨t, ht, htp.trans hrp, htm.trans hrm, htmsg.trans hrmsg⟩

/-- Settles O26: every byte, data or rejected status byte, leaves the core parser in STATUS as it was. -/
theorem rejectingFilterSilencesMessages : Obligations.RejectingFilterSilencesMessages := by
  intro s bs p hx hp hf hall
  have hignored : ∀ b ∈ bs, coreStep b s = s := by
    intro b _
    cases hb : isStatus b with
    | false => exact coreStep_ignores_data hp (by simp [isData_eq_not_isStatus, hb])
    | true => exact coreStep_rejects hp ⟨p, hf, hall b hb⟩
  obtain ⟨t, ht, htp, htm, htmsg⟩ := steps_feeds_core bs hx
  rw [coreRun_ignores hignored] at htp htm htmsg
  exact ⟨t, ht, htp.trans hp, htm, htmsg⟩

end Sys2Proof.Machine

/-! PROOFS. The statements of 42_sysex_accumulator.md: the rows of the accumulator under FEED, and a frame that is
longer than the buffer. -/

namespace Sys2Proof.Machine

/-! ### The deliveries of a FEED -/

section
variable {b : Byte} {s t : State}

/-- The deliveries of a FEED, message events set aside: at 0xF7 and at the C-th data byte alone (R113, R114). -/
theorem feed_buffers (hx : s.XbufInv) (h : feed b s = .next t) :
    t.buffers = s.buffers ++ (if s.xstate = .accumulating ∧ b = 0xF7#8 then sysexEvents s s.xbuf.bytes
      else if s.xstate = .accumulating ∧ isData b = true ∧ s.xlen + 1 = s.capacity then
        sysexEvents s (s.xbuf.bytes ++ [b]) else []) := by
  obtain ⟨t', h', -, -, -, hout, -⟩ := feed_result (b := b) (.inl hx)
  cases h.symm.trans h'
  rw [State.buffers, hout, List.filter_append, ← State.buffers, coreStep_buffers]
  simp only [apply_ite (List.filter Event.isSysExReady), sysexEvents_filter_isSysExReady, List.filter_nil]

theorem feed_buffers_of_idle (hx : s.XbufInv) (hs : s.xstate = .idle) (h : feed b s = .next t) :
    t.buffers = s.buffers := by
  simp [feed_buffers hx h, hs]

/-- R114: the terminator delivers what the buffer holds. -/
theorem feed_buffers_of_end (hx : s.XbufInv) (hs : s.xstate = .accumulating) (h : feed 0xF7#8 s = .next t) :
    t.buffers = s.buffers ++ sysexEvents s s.xbuf.bytes := by
  simp [feed_buffers hx h, hs]

/-- R115 and R116: the aborting byte delivers nothing. -/
theorem feed_buffers_of_abort (hx : s.XbufInv) (hb : isStatus b = true) (hF7 : b ≠ 0xF7#8) (h : feed b s = .next t) :
    t.buffers = s.buffers := by
  simp [feed_buffers hx h, isData_of_isStatus hb, hF7]

/-- R113: a data byte delivers the buffer with itself at the end, in the last place only. -/
theorem feed_buffers_of_data (hx : s.XbufInv) (hs : s.xstate = .accumulating) (hd : isData b = true)
    (h : feed b s = .next t) :
    t.buffers = s.buffers ++ (if s.xlen + 1 = s.capacity then sysexEvents s (s.xbuf.bytes ++ [b]) else []) := by
  have hF7 : b ≠ 0xF7#8 := ne_of_isData hd rfl
  simp [feed_buffers hx h, hs, hd, hF7]

end

/-- Settles O27: `feed_result` has the state of each row, and the `feed_buffers` lemmas its deliveries. -/
theorem accumulatorFollowsItsTable : Obligations.AccumulatorFollowsItsTable := by
  intro s b i hx hi
  obtain rfl := decode_single hi
  obtain ⟨t, ht, hframe, -, -, -, -, hopen, hclose, hfull, happend⟩ := feed_result (b := b) (.inl hx)
  have ⟨_, hcon, _⟩ := hx
  refine ⟨t, (exec_decodeByte b s).trans ht, hframe, fun hs hb => ?_, fun hs hd hlt => ?_, fun hs hd hlast => ?_,
    fun hs hb hF7 => ?_⟩
  · obtain ⟨htx, htb⟩ := hopen hs hb
    exact ⟨htx, htb, feed_buffers_of_idle hx hs ht⟩
  · obtain ⟨htx, htb⟩ := happend hs hd hlt
    obtain ⟨hnew, hold⟩ := Memory.read_append_length hcon b
    have hlen : t.xlen = s.xlen + 1 := by simp [State.xlen, htb]
    have hbuf : t.buffers = s.buffers := by simpa [hlt.ne] using feed_buffers_of_data hx hs hd ht
    exact ⟨htx, htb ▸ hnew, htb ▸ hold, hlen, hbuf⟩
  · obtain ⟨htx, htb⟩ := hfull hs hd hlast
    have hbuf := feed_buffers_of_data hx hs hd ht
    rw [if_pos hlast] at hbuf
    exact ⟨htx, htb, hbuf⟩
  · obtain ⟨htx, htb⟩ := hclose hs (isData_of_isStatus hb)
    exact ⟨htx, htb, feed_buffers_of_abort hx hb hF7 ht⟩

/-- Settles O28: a byte that IDLE ignores leaves the empty buffer, 0xF7 and a second 0xF0 both close the frame, and 0xF7
alone delivers it. -/
theorem accumulatorFollowsTheSpecsDecisions : Obligations.AccumulatorFollowsTheSpecsDecisions := by
  intro s b i hx hi
  obtain rfl := decode_single hi
  obtain ⟨t, ht, hframe, -, -, -, hignore, -, hclose, -⟩ := feed_result (b := b) (.inl hx)
  have ⟨_, _, hempty, _⟩ := hx
  refine ⟨t, (exec_decodeByte b s).trans ht, hframe, fun hs hb => ?_, fun hs hb => ?_, fun hs hb => ?_⟩
  · obtain ⟨htx, htb⟩ := hignore hs hb
    exact ⟨htx, htb.trans (hempty hs), feed_buffers_of_idle hx hs ht⟩
  · subst hb
    obtain ⟨htx, htb⟩ := hclose hs rfl
    exact ⟨htx, htb, feed_buffers_of_end hx hs ht⟩
  · subst hb
    obtain ⟨htx, htb⟩ := hclose hs rfl
    exact ⟨htx, htb, feed_buffers_of_abort hx rfl (by decide) ht⟩

/-! ### A frame that the core parser does not see -/

section
variable {b : Byte} {bs : List Byte} {s u : State}

/-- In STATUS a data byte is the accumulator's alone (R91). -/
theorem feed_data_of_status (hp : s.pstate = .status) (hd : isData b = true) : feed b s = sysexStep b s := by
  rw [feed, coreStep_ignores_data hp hd]

/-- A rejected 0xF0 opens a frame all the same: the filter is the core parser's (R92, R111, R119). -/
theorem feed_start_of_rejects (hp : s.pstate = .status) (hx : s.xstate = .idle) (hr : s.rejects 0xF0#8) :
    feed 0xF0#8 s = .next ((s.setXbuf []).setXState .accumulating) := by
  rw [feed, coreStep_rejects hp hr, sysexStep_idle_start hx]

/-- The first byte of a FEEDS, by what its FEED does. -/
theorem steps_feeds_of_feed (h : feed b (s.withFeeds bs) = .next (u.withFeeds bs)) :
    steps (b :: bs).length (s.withFeeds (b :: bs)) = steps bs.length (u.withFeeds bs) := by
  rw [List.length_cons, steps_feeds_cons, h, andThen_next]

/-- In STATUS and IDLE both machines ignore data bytes (R91, R112). -/
theorem steps_feeds_data_of_idle (hp : s.pstate = .status) (hx : s.xstate = .idle)
    (hd : ∀ b ∈ bs, isData b = true) :
    steps bs.length (s.withFeeds bs) = .next (s.setStim []) := by
  induction bs with
  | nil => rfl
  | cons b bs ih =>
    obtain ⟨hb, hbs⟩ := List.forall_mem_cons.1 hd
    have hF0 : b ≠ 0xF0#8 := ne_of_isData hb rfl
    have hfeed : feed b (s.withFeeds bs) = .next (s.withFeeds bs) :=
      (feed_data_of_status (s := s.withFeeds bs) hp hb).trans (sysexStep_idle_other hx hF0)
    rw [steps_feeds_of_feed hfeed, ih hbs]

/-- In STATUS an open frame takes data bytes up to the C-th, which delivers the buffer; the data bytes after it find the
accumulator in IDLE (R112, R113). -/
theorem steps_feeds_data_to_capacity (hp : s.pstate = .status) (hx : s.xstate = .accumulating)
    (hm : s.xbuf.contiguous = true) (hroom : s.xlen < s.capacity) (hd : ∀ b ∈ bs, isData b = true)
    (hlong : s.capacity ≤ s.xlen + bs.length) :
    steps bs.length (s.withFeeds bs) =
      .next (accumulated .idle [] (some ((s.xbuf.bytes ++ bs).take s.capacity)) (s.setStim [])) := by
  induction bs generalizing s with
  | nil => exact absurd hlong (Nat.not_le.2 hroom)
  | cons b bs ih =>
    obtain ⟨hb, hbs⟩ := List.forall_mem_cons.1 hd
    have hsplit : s.xbuf.bytes ++ b :: bs = (s.xbuf.bytes ++ [b]) ++ bs := by simp
    rw [hsplit]
    rcases (Nat.succ_le_of_lt hroom).eq_or_lt with hlast | hmore
    · have hfeed : feed b (s.withFeeds bs) =
          .next ((accumulated .idle [] (some (s.xbuf.bytes ++ [b])) s).withFeeds bs) :=
        (feed_data_of_status (s := s.withFeeds bs) hp hb).trans (sysexStep_full hx hb hm hlast)
      have hcut : ((s.xbuf.bytes ++ [b]) ++ bs).take s.capacity = s.xbuf.bytes ++ [b] :=
        List.take_left' (by simpa [State.xlen] using hlast)
      rw [steps_feeds_of_feed hfeed, hcut]
      exact steps_feeds_data_of_idle (s := accumulated .idle [] (some (s.xbuf.bytes ++ [b])) s) hp rfl hbs
    · have hfeed : feed b (s.withFeeds bs) = .next ((s.setXbuf (s.xbuf ++ [(s.xlen, b)])).withFeeds bs) :=
        (feed_data_of_status (s := s.withFeeds bs) hp hb).trans (sysexStep_append hx hb hm hmore)
      have hlen : (s.setXbuf (s.xbuf ++ [(s.xlen, b)])).xlen = s.xlen + 1 := by simp [State.xlen]
      have hlong' : s.capacity ≤ s.xlen + 1 + bs.length := by
        rw [List.length_cons] at hlong
        omega
      have hrest := ih (s := s.setXbuf (s.xbuf ++ [(s.xlen, b)])) hp hx (Memory.contiguous_append hm b)
        (hlen ▸ hmore) hbs (hlen ▸ hlong')
      rw [State.setXbuf_xbuf, Memory.bytes_append] at hrest
      exact (steps_feeds_of_feed hfeed).trans hrest

/-- A delivery that leaves XSTATE and XBUF as they were adds its events to OUT and changes nothing else. -/
theorem accumulated_self (d : Option (List Byte)) (s : State) :
    accumulated s.xstate s.xbuf d s = s.setOut (s.out ++ deliveryEvents d s) := rfl

end

/-- Settles O31: the rejected 0xF0 opens the frame, the C-th data byte delivers and closes it, and so the state is in
IDLE with an empty buffer again. -/
theorem overlongFrameIsCutAtTheCapacity : Obligations.OverlongFrameIsCutAtTheCapacity := by
  intro s payload hinv hp hx hr hd hlong
  obtain ⟨hcap, -, hidle, -⟩ := hinv
  have hempty : s.xbuf = [] := hidle hx
  calc steps (payload.length + 1) (s.withFeeds (0xF0#8 :: payload))
      = steps payload.length (((s.setXbuf []).setXState .accumulating).withFeeds payload) :=
        steps_feeds_of_feed (feed_start_of_rejects (s := s.withFeeds payload) hp hx hr)
    _ = .next (accumulated .idle [] (some (payload.take s.capacity))
          (((s.setXbuf []).setXState .accumulating).setStim [])) :=
        steps_feeds_data_to_capacity (s := (s.setXbuf []).setXState .accumulating) hp rfl rfl hcap hd
          (by simpa [State.xlen] using hlong)
    _ = .next (accumulated s.xstate s.xbuf (some (payload.take s.capacity)) (s.setStim [])) := by
        rw [hx, hempty]
        rfl
    _ = .next ((s.setStim []).setOut (s.out ++ sysexEvents s (payload.take s.capacity))) :=
        congrArg _ (accumulated_self _ (s.setStim []))

end Sys2Proof.Machine

/-! PROOFS. The statements of 43_dac_codec.md: ENCODE as a number, the masking of its value, its inverse (the decoder's
reading of a DAC word), and the order of the word on the wire. -/

namespace Sys2Proof.Machine

/-! ### ENCODE as a number (R131, R132) -/

theorem channelCode_toNat (ch : ChannelSelect) : (channelCode ch).toNat = if ch = .selector1 then 1 else 0 := by
  cases ch <;> rfl

theorem bufferCode_toNat (buf : BufferEnable) : (bufferCode buf).toNat = if buf = .on then 1 else 0 := by
  cases buf <;> rfl

theorem gainCode_toNat (gain : Gain) : (gainCode gain).toNat = if gain = .x1 then 1 else 0 := by
  cases gain <;> rfl

theorem shutdownCode_toNat (shdn : Shutdown) : (shutdownCode shdn).toNat = if shdn = .active then 1 else 0 := by
  cases shdn <;> rfl

/-- The value field of the word is the value's remainder. -/
theorem valueField_toNat (value : Word) : (value.extractLsb' 0 12).toNat = value.toNat % 4096 :=
  BitVec.extractLsb'_toNat ..

/-- Settles O16: format W as a number, each code being 1 for the selected member and 0 for the other. -/
theorem dacWordIsTheWeightedSum : Obligations.DacWordIsTheWeightedSum := by
  intro ch buf gain shdn value
  simp only [dacEncode, packWord_toNat, channelCode_toNat, bufferCode_toNat, gainCode_toNat, shutdownCode_toNat,
    valueField_toNat, ite_mul, one_mul, zero_mul]

/-- ENCODE sees nothing of a value but its remainder (R132). -/
theorem dacEncode_eq_of_mod_eq (cfg : DacConfig) {v v' : Word} (h : v.toNat % 4096 = v'.toNat % 4096) :
    dacEncode cfg v = dacEncode cfg v' := by
  have hfield : v.extractLsb' 0 12 = v'.extractLsb' 0 12 := by
    apply BitVec.eq_of_toNat_eq
    rw [valueField_toNat, valueField_toNat, h]
  rw [dacEncode, hfield, dacEncode]

/-! ### ENCODE and the decoder are inverse (R133) -/

/-- The configuration that the decoder reads off a DAC word (`decodeWord_eq`). -/
def configOf (w : Word) : DacConfig where
  channel := if w.getLsbD 15 then .selector1 else .selector0
  buffer := if w.getLsbD 14 then .on else .off
  gain := if w.getLsbD 13 then .x1 else .x2
  shutdown := if w.getLsbD 12 then .active else .shutdown

/-- The value that the decoder reads off a DAC word (`decodeWord_eq`). -/
def valueOf (w : Word) : Word := (w.extractLsb' 0 12).setWidth 16

theorem decodeWord_eq (w : Word) :
    decodeWord w = .dacWord (configOf w).channel (configOf w).buffer (configOf w).gain (configOf w).shutdown
      (valueOf w) := rfl

theorem valueOf_lt (w : Word) : (valueOf w).toNat < 4096 :=
  of_decide_eq_true (valueFits_setWidth (w.extractLsb' 0 12))

/-- Decode, then ENCODE. -/
theorem dacEncode_configOf_valueOf (w : Word) : dacEncode (configOf w) (valueOf w) = w := by
  simp only [dacEncode, configOf, valueOf, channelCode_of_bit, bufferCode_of_bit, gainCode_of_bit,
    shutdownCode_of_bit, extract_setWidth_value, packWord_of_bits]

/-- ENCODE, then decode: a value in range comes back with its configuration. -/
theorem decodeWord_dacEncode (cfg : DacConfig) {value : Word} (h : value.toNat < 4096) :
    decodeWord (dacEncode cfg value) = .dacWord cfg.channel cfg.buffer cfg.gain cfg.shutdown value := by
  rw [dacEncode, decodeWord_packWord, channelCode_read, bufferCode_read, gainCode_read, shutdownCode_read,
    setWidth_extract_value (decide_eq_true h)]

/-- ENCODE is injective on the values in range: the word determines what the decoder reads off it. -/
theorem dacEncode_injective {cfg cfg' : DacConfig} {v v' : Word} (hv : v.toNat < 4096) (hv' : v'.toNat < 4096)
    (h : dacEncode cfg v = dacEncode cfg' v') : cfg = cfg' ∧ v = v' := by
  have hread := congrArg decodeWord h
  rw [decodeWord_dacEncode cfg hv, decodeWord_dacEncode cfg' hv'] at hread
  obtain ⟨ch, buf, gain, shdn⟩ := cfg
  cases hread
  exact ⟨rfl, rfl⟩

/-- Settles O19: the decoder's reading of the word is a pair for it, and ENCODE is injective. -/
theorem dacWordsAreBijective : Obligations.DacWordsAreBijective := by
  intro w
  refine ⟨configOf w, valueOf w, valueOf_lt w, dacEncode_configOf_valueOf w, fun cfg' value' hlt hw => ?_⟩
  exact dacEncode_injective hlt (valueOf_lt w) (hw.trans (dacEncode_configOf_valueOf w).symm)

/-- Settles O17: 4096 leaves the remainder of 0, and 0 and 4095 are both in range, where ENCODE is injective. -/
theorem dacValueIsMasked : Obligations.DacValueIsMasked := by
  intro cfg value
  have hwrap : dacEncode cfg 4096#16 = dacEncode cfg 0#16 := dacEncode_eq_of_mod_eq cfg rfl
  refine ⟨dacEncode_eq_of_mod_eq cfg ?_, hwrap, fun hclamp => ?_⟩
  · rw [BitVec.toNat_ofNat]
    omega
  · have hvalues : (0#16 : Word) = 4095#16 :=
      (dacEncode_injective (by decide) (by decide) (hwrap.symm.trans hclamp)).2
    exact absurd hvalues (by decide)

/-! ### The operations of the codec (R130, R140) -/

/-- DAC_WORD and the operation ENCODE, in every state. -/
theorem exec_dacWord (cfg : DacConfig) (value : Word) (s : State) :
    exec (.dacWord cfg.channel cfg.buffer cfg.gain cfg.shutdown value) s =
      .next (s.setAnswer (some (.word (dacEncode cfg value)))) :=
  reply_eq (.word (dacEncode cfg value)) s

/-- Settles O18: the operation runs the instruction (log 9). -/
theorem dacWordAnswersItsWord : Obligations.DacWordAnswersItsWord := fun ch buf gain shdn value s =>
  ⟨exec_dacWord ⟨ch, buf, gain, shdn⟩ value s, exec_dacWord ⟨ch, buf, gain, shdn⟩ value s⟩

/-- Settles O20: the two bytes join to the word, and ENCODE of what is read off it is the word. -/
theorem packedOperandsGiveTheirWord : Obligations.PackedOperandsGiveTheirWord := by
  intro w s
  calc perform (.codecWord w) s
      = exec (decodeWord (w.extractLsb' 8 8 ++ w.extractLsb' 0 8)) s := runBytes_wireBytes w s
    _ = exec (decodeWord w) s := by rw [wireBytes_append]
    _ = .next (s.setAnswer (some (.word (dacEncode (configOf w) (valueOf w))))) := by
        rw [decodeWord_eq, exec_dacWord]
    _ = .next (s.setAnswer (some (.word w))) := by rw [dacEncode_configOf_valueOf]

/-! ### The order on the wire (R134) -/

/-- The first `k` bits of a word on the wire. -/
def firstWireBits (w : Word) (k : Nat) : List Bool := (List.range k).map fun i => w.getLsbD (15 - i)

theorem wireBits_eq (w : Word) : wireBits w = firstWireBits w 16 := rfl

theorem firstWireBits_succ (w : Word) (k : Nat) :
    firstWireBits w (k + 1) = firstWireBits w k ++ [w.getLsbD (15 - k)] := by
  rw [firstWireBits, List.range_succ, List.map_append]
  rfl

/-- A word shifted right is the word shifted one place further, doubled, and the bit between the two. -/
theorem div_two_pow_eq (w : Word) (n : Nat) :
    w.toNat / 2 ^ n = 2 * (w.toNat / 2 ^ (n + 1)) + (w.getLsbD n).toNat := by
  rw [← BitVec.testBit_toNat, Nat.toNat_testBit, pow_succ, ← Nat.div_div_eq_div_mul, Nat.div_add_mod]

/-- The first `k` bits on the wire, read most significant first, are the top `k` bits of the word. -/
theorem foldl_firstWireBits (w : Word) {k : Nat} (hk : k ≤ 16) :
    (firstWireBits w k).foldl (fun n b => 2 * n + b.toNat) 0 = w.toNat / 2 ^ (16 - k) := by
  induction k with
  | zero => exact (Nat.div_eq_of_lt w.isLt).symm
  | succ k ih =>
    have hshift : 16 - k = (15 - k) + 1 := by omega
    have hnext : 16 - (k + 1) = 15 - k := by omega
    rw [firstWireBits_succ, List.foldl_append, ih (by omega), hshift, hnext, div_two_pow_eq w (15 - k)]
    rfl

/-- Settles O21: all sixteen bits read are the whole word, and so are its two bytes joined. -/
theorem wordGoesOutMostSignificantFirst : Obligations.WordGoesOutMostSignificantFirst := by
  intro w
  refine ⟨by simp [wireBits], ?_, w.extractLsb' 8 8, w.extractLsb' 0 8, rfl, ?_⟩
  · rw [wireBits_eq, foldl_firstWireBits w le_rfl, Nat.sub_self, pow_zero, Nat.div_one]
  · rw [← append_bytes_toNat, wireBytes_append]

end Sys2Proof.Machine

/-! PROOFS. The statements of 44_operations.md: what each operation writes, FEED as two machines that see the same byte
and nothing of each other, the events of one FEED, and whole frames with and without a filter. -/

namespace Sys2Proof.Machine

/-! ### The step and the operations (R140, R143-R147) -/

theorem runBytes_of_decode {bs : List Byte} {i : Instr} (h : decode bs = .ok i) (s : State) :
    runBytes bs s = exec i s := by
  rw [runBytes, h]

/-- Settles O6: the step serves the oldest request, which runs what its bytes decode to; ENCODE is run as it stands. -/
theorem stepRunsDecodedInstruction : Obligations.StepRunsDecodedInstruction := fun s rest =>
  ⟨fun _ _ hq hi => (step_cons hq).trans (runBytes_of_decode hi (s.setStim rest)),
    fun _ _ hq hi => (step_cons hq).trans (runBytes_of_decode hi (s.setStim rest)),
    fun _ _ hq => step_cons hq⟩

/-- Settles O43: each SET is the update of its register, and of two updates of one register the later one stands. -/
theorem registrationWritesOneRegister : Obligations.RegistrationWritesOneRegister := fun _ _ _ _ _ =>
  ⟨⟨_, rfl, rfl, rfl⟩, ⟨_, rfl, rfl, rfl⟩, ⟨_, rfl, rfl, rfl⟩⟩

/-- Settles O45: FEED needs the buffer in order; no other operation has a premise. -/
theorem everyOperationCompletes : Obligations.EveryOperationCompletes := by
  intro o s hx
  cases o with
  | feed b =>
    obtain ⟨t, ht⟩ := feed_answers (b := b) hx
    exact ⟨t, (runBytes_single b s).trans ht⟩
  | reset | setFilter | setMsgCb | setSysexCb => exact ⟨_, rfl⟩
  | isStatus | isData | commandOf | channelOf | isCommand | encode | codecWord => exact ⟨_, reply_eq _ s⟩

/-- RESET keeps what is no register: the capacity and the requests (R190). -/
theorem performReset_frame (s : State) :
    (performReset s).capacity = s.capacity ∧ (performReset s).stim = s.stim := ⟨rfl, rfl⟩

/-- Settles O44, by what an operation can do. -/
theorem operationsWriteOnlyTheirRegisters : Obligations.OperationsWriteOnlyTheirRegisters := by
  intro o s t h
  obtain ⟨rfl, rfl⟩ | ⟨b, rfl, hf⟩ | ⟨p, rfl, rfl⟩ | ⟨g, rfl, rfl⟩ | ⟨g, rfl, rfl⟩ | ⟨-, a, rfl⟩ := perform_cases h
  · simp [performReset_frame]
  · obtain ⟨hcap, hfilt, hmsgCb, hsxCb, -, hstim, -⟩ := feed_frame hf
    simp [hcap, hfilt, hmsgCb, hsxCb, hstim]
  · simp
  · simp
  · simp
  · simp

/-! ### The two machines are blind to each other (R141, D2) -/

/-- Settles O36: a FEED is to the core parser its own step, which keeps the agreement of the two states. -/
theorem coreParserIsBlindToTheAccumulator : Obligations.CoreParserIsBlindToTheAccumulator := by
  intro s s' t t' b i hi hp hm hf hcb hmsg h h'
  obtain rfl := decode_single hi
  rw [exec_decodeByte] at h h'
  have hagree : CoreAgrees s' s := ⟨hp, hm, hmsg, hf, hcb⟩
  obtain ⟨htp, htm, htmsg, -⟩ := (hagree.coreStep b).trans (feed_coreAgrees h)
  obtain ⟨htp', htm', htmsg', -⟩ := feed_coreAgrees h'
  exact ⟨htp.trans htp'.symm, htm.trans htm'.symm, htmsg.trans htmsg'.symm⟩

/-- `t` is in all that the accumulator reads, writes or emits as `s` is. -/
def AccumulatorAgrees (s t : State) : Prop :=
  t.capacity = s.capacity ∧ t.xstate = s.xstate ∧ t.xbuf = s.xbuf ∧ t.sxCb = s.sxCb ∧ t.buffers = s.buffers

section
variable {b : Byte} {s s' t : State}

/-- FEED keeps the agreement, and completes in the one state if it does in the other. -/
theorem feed_accumulatorAgrees (hs : AccumulatorAgrees s s') (h : feed b s = .next t) :
    ∃ t', feed b s' = .next t' ∧ AccumulatorAgrees t t' := by
  obtain ⟨x, m, d, hu⟩ := sysexStep_uniform h
  cases h.symm.trans (hu (coreStep b s) rfl rfl rfl)
  obtain ⟨hc, hx, hb, hcb, hbuf⟩ := hs
  have hcap : (coreStep b s').capacity = (coreStep b s).capacity := by simp [hc]
  have hsx : (coreStep b s').sxCb = (coreStep b s).sxCb := by simp [hcb]
  refine ⟨_, hu (coreStep b s') hcap (by simp [hx]) (by simp [hb]), hcap, rfl, rfl, hsx, ?_⟩
  rw [accumulated_buffers, accumulated_buffers, deliveryEvents_congr d hsx, coreStep_buffers, coreStep_buffers, hbuf]

/-- A sequence of bytes keeps the agreement, and is taken whole from the one state if it is from the other. -/
theorem steps_feeds_accumulatorAgrees {bs : List Byte} (hs : AccumulatorAgrees s s')
    (h : steps bs.length (s.withFeeds bs) = .next t) :
    ∃ t', steps bs.length (s'.withFeeds bs) = .next t' ∧ AccumulatorAgrees t t' := by
  induction bs generalizing s s' with
  | nil =>
    cases h
    exact ⟨s'.withFeeds [], rfl, hs⟩
  | cons b bs ih =>
    rw [List.length_cons, steps_feeds_cons] at h ⊢
    obtain ⟨u, hu, hrest⟩ := andThen_eq_next h
    obtain ⟨u', hu', hagree⟩ := feed_accumulatorAgrees (s := s.withFeeds bs) (s' := s'.withFeeds bs) hs hu
    obtain ⟨-, -, -, -, -, hstim, -⟩ := feed_frame hu
    obtain ⟨-, -, -, -, -, hstim', -⟩ := feed_frame hu'
    rw [withFeeds_of_stim hstim] at hrest
    rw [hu', andThen_next, withFeeds_of_stim hstim']
    exact ih hagree hrest

end

/-- Settles O37. -/
theorem accumulatorIsBlindToFilterAndCoreParser : Obligations.AccumulatorIsBlindToFilterAndCoreParser := by
  intro s s' t b i hi hc hx hb hcb hbuf h
  obtain rfl := decode_single hi
  rw [exec_decodeByte] at h ⊢
  obtain ⟨t', ht', -, htx, htb, -, htbuf⟩ :=
    feed_accumulatorAgrees (s' := s') ⟨hc.symm, hx.symm, hb.symm, hcb.symm, hbuf.symm⟩ h
  exact ⟨t', ht', htx.symm, htb.symm, htbuf.symm⟩

/-! ### The events of one FEED (R24 item 8, R149, D3) -/

section
variable {b : Byte} {s t : State}

theorem msgEvents_length_le (s : State) (b : Byte) : (msgEvents s b).length ≤ 1 := by
  cases h : s.msgCb <;> simp [msgEvents, h]

theorem sysexEvents_length_le (s : State) (bytes : List Byte) : (sysexEvents s bytes).length ≤ 1 := by
  cases h : s.sxCb <;> simp [sysexEvents, h]

theorem msgEvents_eq_singleton {e : Event} (h : msgEvents s b = [e]) :
    ∃ g, s.msgCb = some g ∧ e = .msgReady g s.msg.status s.msg.data1 b := by
  cases hg : s.msgCb with
  | none => simp [msgEvents, hg] at h
  | some g => exact ⟨g, rfl, by simpa [msgEvents, hg] using h.symm⟩

theorem sysexEvents_eq_singleton {bytes : List Byte} {e : Event} (h : sysexEvents s bytes = [e]) :
    ∃ g, s.sxCb = some g ∧ e = .sysExReady g bytes := by
  cases hg : s.sxCb with
  | none => simp [sysexEvents, hg] at h
  | some g => exact ⟨g, rfl, by simpa [sysexEvents, hg] using h.symm⟩

theorem deliveryEvents_length_le (d : Option (List Byte)) (s : State) : (deliveryEvents d s).length ≤ 1 := by
  cases d with
  | none => exact Nat.zero_le 1
  | some bytes => exact sysexEvents_length_le s bytes

theorem isSysExReady_of_mem_deliveryEvents {d : Option (List Byte)} :
    ∀ e ∈ deliveryEvents d s, e.isSysExReady = true := by
  cases d with
  | none => simp [deliveryEvents]
  | some bytes => exact List.filter_eq_self.1 (sysexEvents_filter_isSysExReady s bytes)

/-- What a FEED adds to OUT: the core parser's message if the byte completes one, then the accumulator's delivery. -/
theorem feed_out (h : feed b s = .next t) : ∃ d, t.out =
    s.out ++ (if s.pstate = .data2 ∧ isData b = true then msgEvents s b else []) ++ deliveryEvents d s := by
  obtain ⟨x, m, d, hu⟩ := sysexStep_uniform h
  cases h.symm.trans (hu (coreStep b s) rfl rfl rfl)
  refine ⟨d, ?_⟩
  rw [← coreStep_out, ← deliveryEvents_congr d (coreStep_sxCb b s)]
  rfl

/-- Two events appended in two parts of at most one event each: one from each part. -/
theorem eq_singletons_of_append_pair {out ms xs : List Event} {e₁ e₂ : Event} (hms : ms.length ≤ 1)
    (hxs : xs.length ≤ 1) (h : out ++ [e₁, e₂] = out ++ ms ++ xs) : ms = [e₁] ∧ xs = [e₂] := by
  have hpair : [e₁] ++ [e₂] = ms ++ xs := by simpa using h
  have hsum : 2 = ms.length + xs.length := by simpa using congrArg List.length hpair
  have hlen : ms.length = [e₁].length := by rw [List.length_singleton]; omega
  exact List.append_inj hpair.symm hlen

theorem length_ite_nil_le {P : Prop} [Decidable P] {es : List Event} (h : es.length ≤ 1) :
    (if P then es else []).length ≤ 1 := by
  split
  · exact h
  · exact Nat.zero_le 1

theorem ite_nil_eq_singleton {P : Prop} [Decidable P] {es : List Event} {e : Event}
    (h : (if P then es else []) = [e]) : P ∧ es = [e] := by
  split at h
  · exact ⟨‹P›, h⟩
  · cases h

/-- Two events of a FEED are a message that the byte completes and a delivery that it fills the buffer for: a status
byte completes no message, and a data byte delivers in the last place alone (R97, R113). -/
theorem feed_out_pair {e₁ e₂ : Event} (hx : s.XbufInv) (h : feed b s = .next t) (hout : t.out = s.out ++ [e₁, e₂]) :
    isData b = true ∧ s.pstate = .data2 ∧ s.xstate = .accumulating ∧ s.xlen + 1 = s.capacity ∧
      msgEvents s b = [e₁] ∧ sysexEvents s (s.xbuf.bytes ++ [b]) = [e₂] := by
  obtain ⟨d, hev⟩ := feed_out h
  obtain ⟨hfirst, -⟩ := eq_singletons_of_append_pair (length_ite_nil_le (msgEvents_length_le s b))
    (deliveryEvents_length_le d s) (hout.symm.trans hev)
  obtain ⟨⟨hp, hd⟩, hmsg⟩ := ite_nil_eq_singleton hfirst
  obtain ⟨-, hsecond⟩ := eq_singletons_of_append_pair (length_ite_nil_le (msgEvents_length_le s b))
    (length_ite_nil_le (sysexEvents_length_le s _)) (hout.symm.trans (feed_data_out hx hd h))
  obtain ⟨⟨hacc, hlast⟩, hbuf⟩ := ite_nil_eq_singleton hsecond
  exact ⟨hd, hp, hacc, hlast, hmsg, hbuf⟩

end

/-- Settles O41: `feed_out`, each part with its length and its kind of event. -/
theorem feedEmitsMessageThenBuffer : Obligations.FeedEmitsMessageThenBuffer := by
  intro s t b i hi h
  obtain rfl := decode_single hi
  rw [exec_decodeByte] at h
  obtain ⟨d, hout⟩ := feed_out h
  refine ⟨_, _, hout, length_ite_nil_le (msgEvents_length_le s b), deliveryEvents_length_le d s, ?_,
    isSysExReady_of_mem_deliveryEvents⟩
  split
  · exact List.filter_eq_self.1 (msgEvents_filter_isMsgReady s b)
  · simp

/-- Settles O42: the byte completes the message and fills the buffer; by the link the message in progress is the frame's
own 0xF0 with the one data byte that the buffer holds, and so the second fills it. -/
theorem twoEventsInOneFeedNeedCapacityTwo : Obligations.TwoEventsInOneFeedNeedCapacityTwo := by
  intro s t b i e₁ e₂ hinv hi h hout
  obtain rfl := decode_single hi
  rw [exec_decodeByte] at h
  obtain ⟨⟨-, hd1⟩, hx, -, hlink⟩ := hinv
  obtain ⟨hd, hp, hacc, hlast, hmsg, hbuf⟩ := feed_out_pair hx h hout
  obtain ⟨hF0, hbytes⟩ := hlink hacc (by simp [hp])
  have hheld : s.xbuf.bytes = [s.msg.data1] := by simpa [hp] using hbytes
  have hlen : s.xlen = 1 := by simpa [State.xlen] using congrArg List.length hheld
  obtain ⟨g, hg, rfl⟩ := msgEvents_eq_singleton hmsg
  obtain ⟨k, hk, rfl⟩ := sysexEvents_eq_singleton hbuf
  exact ⟨by omega, g, k, s.msg.data1, hg, hk, hd1 hp, hd, by rw [hF0], by rw [hheld]; rfl⟩

/-! ### A whole frame (R148) -/

/-- `s` with a frame open that holds `m`. -/
def frameOpen (m : Memory) (s : State) : State := (s.setXbuf m).setXState .accumulating

section
variable {b : Byte} {bs : List Byte} {m : Memory} {s : State}

/-- In STATUS an open frame takes a data byte that is not its last (R91, R113). -/
theorem feed_data_with_room (hp : s.pstate = .status) (hm : m.contiguous = true) (hd : isData b = true)
    (hroom : m.length + 1 < s.capacity) :
    feed b (frameOpen m s) = .next (frameOpen (m ++ [(m.length, b)]) s) :=
  (feed_data_of_status (s := frameOpen m s) hp hd).trans (sysexStep_append (s := frameOpen m s) rfl hd hm hroom)

/-- A rejected 0xF7 delivers all the same (R92, R114, R119). -/
theorem feed_end_of_rejects (hp : s.pstate = .status) (hr : s.rejects 0xF7#8) :
    feed 0xF7#8 (frameOpen m s) = .next (accumulated .idle [] (some m.bytes) s) := by
  have hignored : coreStep 0xF7#8 (frameOpen m s) = frameOpen m s := coreStep_rejects (s := frameOpen m s) hp hr
  rw [feed, hignored, sysexStep_end rfl]
  rfl

/-- In STATUS an open frame takes data bytes one after the other while room is left; `rest` is what is fed after
them. -/
theorem steps_feeds_data_with_room (rest : List Byte) (hp : s.pstate = .status) (hm : m.contiguous = true)
    (hd : ∀ b ∈ bs, isData b = true) (hroom : m.length + bs.length < s.capacity) :
    ∃ m' : Memory, m'.bytes = m.bytes ++ bs ∧
      steps (bs ++ rest).length ((frameOpen m s).withFeeds (bs ++ rest)) =
        steps rest.length ((frameOpen m' s).withFeeds rest) := by
  induction bs generalizing m with
  | nil => exact ⟨m, (List.append_nil _).symm, rfl⟩
  | cons b bs ih =>
    obtain ⟨hb, hbs⟩ := List.forall_mem_cons.1 hd
    rw [List.length_cons] at hroom
    have hnotLast : m.length + 1 < s.capacity := by omega
    have hfeed : feed b ((frameOpen m s).withFeeds (bs ++ rest)) =
        .next ((frameOpen (m ++ [(m.length, b)]) s).withFeeds (bs ++ rest)) :=
      feed_data_with_room (s := s.withFeeds (bs ++ rest)) hp hm hb hnotLast
    have hroom' : (m ++ [(m.length, b)]).length + bs.length < s.capacity := by
      rw [List.length_append, List.length_singleton]
      omega
    obtain ⟨m', hbytes, hrest⟩ := ih (Memory.contiguous_append hm b) hbs hroom'
    refine ⟨m', ?_, (steps_feeds_of_feed hfeed).trans hrest⟩
    rw [hbytes, Memory.bytes_append, List.append_assoc]
    rfl

end

/-- Settles O29: the rejected 0xF0 opens the frame, the payload fits, the rejected 0xF7 delivers and closes it, and so
the state is in IDLE with an empty buffer again. -/
theorem filteredFrameIsDeliveredWhole : Obligations.FilteredFrameIsDeliveredWhole := by
  intro s payload hinv hp hx hF0 hF7 hd hshort
  obtain ⟨-, -, hidle, -⟩ := hinv
  have hempty : s.xbuf = [] := hidle hx
  obtain ⟨m, hbytes, htaken⟩ :=
    steps_feeds_data_with_room (m := []) [0xF7#8] hp rfl hd ((Nat.zero_add _).trans_lt hshort)
  have hheld : m.bytes = payload := hbytes
  have hstart : feed 0xF0#8 (s.withFeeds (payload ++ [0xF7#8])) =
      .next ((frameOpen [] s).withFeeds (payload ++ [0xF7#8])) :=
    feed_start_of_rejects (s := s.withFeeds (payload ++ [0xF7#8])) hp hx hF0
  have hend : feed 0xF7#8 ((frameOpen m s).withFeeds []) =
      .next ((accumulated .idle [] (some m.bytes) s).withFeeds []) :=
    feed_end_of_rejects (s := s.withFeeds []) hp hF7
  calc steps (payload.length + 2) (s.withFeeds (0xF0#8 :: payload ++ [0xF7#8]))
      = steps (0xF0#8 :: (payload ++ [0xF7#8])).length (s.withFeeds (0xF0#8 :: (payload ++ [0xF7#8]))) := by simp
    _ = steps (payload ++ [0xF7#8]).length ((frameOpen [] s).withFeeds (payload ++ [0xF7#8])) :=
        steps_feeds_of_feed hstart
    _ = steps [0xF7#8].length ((frameOpen m s).withFeeds [0xF7#8]) := htaken
    _ = .next ((accumulated .idle [] (some m.bytes) s).withFeeds []) := steps_feeds_of_feed hend
    _ = .next (accumulated s.xstate s.xbuf (some payload) (s.setStim [])) := by
        rw [hx, hempty, hheld]
        rfl
    _ = .next ((s.setStim []).setOut (s.out ++ sysexEvents s payload)) :=
        congrArg _ (accumulated_self _ (s.setStim []))

section
variable {s : State}

theorem coreRun_append (bs cs : List Byte) (s : State) : coreRun (bs ++ cs) s = coreRun cs (coreRun bs s) :=
  List.foldl_append

@[simp] theorem coreRun_filt (bs : List Byte) (s : State) : (coreRun bs s).filt = s.filt := by
  induction bs generalizing s with
  | nil => rfl
  | cons b bs ih => rw [coreRun_cons, ih, coreStep_filt]

/-- The messages that an unfiltered frame with data bytes `payload` delivers (R148, R200). -/
def frameMessages (s : State) : List Byte → List Event
  | d1 :: d2 :: _ => (s.msgCb.map fun h => Event.msgReady h 0xF0#8 d1 d2).toList
  | _ => []

/-- An unfiltered frame as the core parser sees it: its 0xF0 is a status byte like any other. With fewer than two data
bytes the 0xF7 aborts the message; with two it is complete, and the 0xF7 starts the next one. -/
theorem coreRun_unfiltered_frame {payload : List Byte} (hp : s.pstate = .status) (hf : s.filt = none)
    (hd : ∀ b ∈ payload, isData b = true) :
    (coreRun (0xF0#8 :: payload ++ [0xF7#8]) s).pstate = (if 2 ≤ payload.length then .data1 else .status) ∧
    (coreRun (0xF0#8 :: payload ++ [0xF7#8]) s).msg.status = (if 2 ≤ payload.length then 0xF7#8 else 0xF0#8) ∧
    (coreRun (0xF0#8 :: payload ++ [0xF7#8]) s).messages = s.messages ++ frameMessages s payload := by
  have hstart := coreStep_accepts (b := 0xF0#8) hp rfl (.inl hf)
  match payload with
  | [] =>
    have habort : coreRun [0xF0#8, 0xF7#8] s = (coreStep 0xF0#8 s).setPState .status := by
      rw [coreRun_cons, coreRun_cons, coreStep_aborts (by simp [hstart]) rfl, coreRun_nil]
    simp [habort, hstart, frameMessages]
  | [d1] =>
    have hd1 : isData d1 = true := hd d1 (by simp)
    have hstore := coreStep_stores_data1 (s := coreStep 0xF0#8 s) (by simp [hstart]) hd1
    have habort : coreRun [0xF0#8, d1, 0xF7#8] s = (coreStep d1 (coreStep 0xF0#8 s)).setPState .status := by
      rw [coreRun_cons, coreRun_cons, coreRun_cons, coreStep_aborts (by simp [hstore]) rfl, coreRun_nil]
    rw [List.cons_append, List.singleton_append, habort, hstore]
    simp [hstart, frameMessages]
  | d1 :: d2 :: rest =>
    simp only [List.forall_mem_cons] at hd
    obtain ⟨hd1, hd2, hrest⟩ := hd
    obtain ⟨hup, -, humsg⟩ := coreRun_message (b := 0xF0#8) hp rfl (.inl hf) hd1 hd2
    have hignored : coreRun rest (coreRun [0xF0#8, d1, d2] s) = coreRun [0xF0#8, d1, d2] s :=
      coreRun_ignores fun b hb => coreStep_ignores_data hup (hrest b hb)
    have hnext := coreStep_accepts (b := 0xF7#8) hup rfl (.inl ((coreRun_filt _ s).trans hf))
    have hrun : coreRun (0xF0#8 :: (d1 :: d2 :: rest) ++ [0xF7#8]) s =
        coreStep 0xF7#8 (coreRun [0xF0#8, d1, d2] s) := by
      show coreRun ([0xF0#8, d1, d2] ++ (rest ++ [0xF7#8])) s = _
      rw [coreRun_append, coreRun_append, hignored]
      rfl
    rw [hrun, hnext]
    simp [humsg, frameMessages]

/-- The mask without a bit set rejects every byte. -/
theorem rejects_zero (s : State) (b : Byte) : (s.setFilt (some 0#128)).rejects b :=
  ⟨0#128, rfl, BitVec.getLsbD_zero⟩

/-- To the accumulator a frame is the same with a filter and without one (R119, D4), so `filteredFrameIsDeliveredWhole`
says what it does in both cases. -/
theorem steps_feeds_frame_accumulator {payload : List Byte} (hinv : s.XbufInv) (hp : s.pstate = .status)
    (hx : s.xstate = .idle) (hd : ∀ b ∈ payload, isData b = true) (hshort : payload.length < s.capacity) :
    ∃ t, steps (payload.length + 2) (s.withFeeds (0xF0#8 :: payload ++ [0xF7#8])) = .next t ∧ t.xstate = .idle ∧
      t.xbuf = [] ∧ t.buffers = s.buffers ++ sysexEvents s payload := by
  have hfiltered := filteredFrameIsDeliveredWhole (s.setFilt (some 0#128)) payload hinv hp hx (rejects_zero s _)
    (rejects_zero s _) hd hshort
  have hlen : payload.length + 2 = (0xF0#8 :: payload ++ [0xF7#8]).length := by simp
  rw [hlen] at hfiltered ⊢
  have hblind : AccumulatorAgrees (s.setFilt (some 0#128)) s := ⟨rfl, rfl, rfl, rfl, rfl⟩
  obtain ⟨t, ht, -, htx, htb, -, htbuf⟩ := steps_feeds_accumulatorAgrees hblind hfiltered
  obtain ⟨-, -, hidle, -⟩ := hinv
  refine ⟨t, ht, htx.trans hx, htb.trans (hidle hx), ?_⟩
  rw [htbuf, State.setOut_buffers, List.filter_append]
  exact congrArg (s.buffers ++ ·) (sysexEvents_filter_isSysExReady s payload)

end

/-- Settles O30: each machine's run over the frame, taken alone. -/
theorem unfilteredFrameReachesBothMachines : Obligations.UnfilteredFrameReachesBothMachines := by
  intro s payload hinv hp hx hf hd hshort
  obtain ⟨t, ht, htx, htb, htbuf⟩ := steps_feeds_frame_accumulator hinv hp hx hd hshort
  obtain ⟨t', ht', htp, htm, htmsg⟩ := steps_feeds_core (0xF0#8 :: payload ++ [0xF7#8]) hinv
  have hlen : payload.length + 2 = (0xF0#8 :: payload ++ [0xF7#8]).length := by simp
  rw [← hlen] at ht'
  cases ht.symm.trans ht'
  obtain ⟨hrp, hrm, hrmsg⟩ := coreRun_unfiltered_frame hp hf hd
  exact ⟨t, ht, htx, htb, htbuf, htp.trans hrp, (congrArg Msg.status htm).trans hrm, htmsg.trans hrmsg⟩

end Sys2Proof.Machine

/-! PROOFS. The statement of 45_application_reference.md: what the application, outside the block, does with a delivered
buffer of each form. -/

namespace Sys2Proof.Machine

/-- The two payload bytes are big-endian (R161). -/
theorem appValue_eq_ofNat (hi lo : Byte) : appValue hi lo = BitVec.ofNat 16 (hi.toNat * 256 + lo.toNat) := by
  rw [appValue, ← append_bytes_toNat, BitVec.ofNat_toNat, BitVec.setWidth_eq]

theorem gateAction_close (other : GateOther) : gateAction other 0x00#8 = .closeGate := rfl

theorem gateAction_open (other : GateOther) : gateAction other 0x01#8 = .openGate := rfl

/-- Set DAC value (R161). -/
theorem appAction_setDac (p : AppParams) (hi lo : Byte) :
    appAction p [0b0#1 ++ p.mfrId, 0x01#8, hi, lo] = .sendDac (dacEncode p.dacCfg (appValue hi lo)) :=
  if_pos ⟨rfl, rfl⟩

/-- Set gate (R162). -/
theorem appAction_setGate (p : AppParams) (payload : Byte) :
    appAction p [0b0#1 ++ p.mfrId, 0x02#8, payload] = gateAction p.gateOther payload :=
  if_pos ⟨rfl, rfl⟩

/-- Everything else (R163): at lengths 3 and 4 the identifier or the sub-command differs, and no other length is
dispatched on. -/
theorem appAction_ignores {p : AppParams} {bytes : List Byte}
    (hdac : ∀ hi lo, bytes ≠ [0b0#1 ++ p.mfrId, 0x01#8, hi, lo])
    (hgate : ∀ payload, bytes ≠ [0b0#1 ++ p.mfrId, 0x02#8, payload]) : appAction p bytes = .ignore := by
  match bytes with
  | [] | [_] | [_, _] | _ :: _ :: _ :: _ :: _ :: _ => rfl
  | [m, c, payload] =>
    refine if_neg ?_
    rintro ⟨rfl, rfl⟩
    exact hgate payload rfl
  | [m, c, hi, lo] =>
    refine if_neg ?_
    rintro ⟨rfl, rfl⟩
    exact hdac hi lo rfl

/-- Settles O52: one lemma for each form of buffer. -/
theorem applicationDispatchesOnLengthAndHeader : Obligations.ApplicationDispatchesOnLengthAndHeader := by
  intro p bytes
  refine ⟨?setDac, ?closeGate, ?openGate, appAction_ignores⟩
  case setDac =>
    rintro hi lo rfl
    exact ⟨_, appAction_setDac p hi lo, congrArg (dacEncode p.dacCfg) (appValue_eq_ofNat hi lo)⟩
  case closeGate =>
    rintro rfl
    exact (appAction_setGate p _).trans (gateAction_close _)
  case openGate =>
    rintro rfl
    exact (appAction_setGate p _).trans (gateAction_open _)

end Sys2Proof.Machine

/-! PROOFS. The statements of 60_exceptions.md: the one refusal, the block that waits, and that no step faults. -/

namespace Sys2Proof.Machine

/-! ### The only refusal is re-entry (R175, R196, D22) -/

/-- A sequence is refused by its first part, or by its second in the state the first leaves. -/
theorem andThen_eq_refused_iff {r : Result} {f : State → Result} {e : Refusal} :
    andThen r f = .refused e ↔ r = .refused e ∨ ∃ t, r = .next t ∧ f t = .refused e := by
  cases r <;> simp

/-- The accumulator takes every byte, or meets an index outside XBUF; it refuses none (R55). -/
theorem sysexStep_ne_refused (b : Byte) (s : State) (e : Refusal) : sysexStep b s ≠ .refused e := by
  cases hx : s.xstate with
  | idle =>
    by_cases hb : b = 0xF0#8
    · simp [hb, sysexStep_idle_start hx]
    · simp [sysexStep_idle_other hx hb]
  | accumulating =>
    cases hd : isData b with
    | true =>
      by_cases hlt : s.xlen < s.capacity
      · simp [sysexStep_data hx hd hlt]
      · simp [sysexStep, hx, hd, writeXbuf_outside (Nat.not_lt.1 hlt)]
    | false =>
      by_cases hb : b = 0xF7#8
      · simp [hb, sysexStep_end hx]
      · simp [sysexStep_abort hx hd hb]

/-- No single operation is refused: only FEED can do other than complete, and FEED does not refuse (R140, R55). -/
theorem perform_ne_refused (o : Operation) (s : State) (e : Refusal) : perform o s ≠ .refused e := by
  cases o with
  | feed b =>
    intro h
    exact sysexStep_ne_refused b (coreStep b s) e ((runBytes_single b s).symm.trans h)
  | reset | setFilter | setMsgCb | setSysexCb | isStatus | isData | commandOf | channelOf | isCommand | encode
  | codecWord => exact nofun

/-- The two operations of the request touch the state and overlap (R175, R196). -/
def Request.reentrant (r : Request) : Prop :=
  ∃ o₁ o₂, r = .overlapping o₁ o₂ ∧ touchesState o₁ = true ∧ touchesState o₂ = true

theorem serve_reentrant {r : Request} (h : r.reentrant) (s : State) : serve r s = .refused .reentrant := by
  obtain ⟨o₁, o₂, rfl, h₁, h₂⟩ := h
  simp [serve, h₁, h₂]

/-- Two operations of which one is combinational are performed one after the other (R70, R130, R175). -/
theorem serve_overlapping {o₁ o₂ : Operation} (h : ¬ (Request.overlapping o₁ o₂).reentrant) (s : State) :
    serve (.overlapping o₁ o₂) s = andThen (perform o₁ s) (perform o₂) := by
  have hfree : ¬ (touchesState o₁ && touchesState o₂) = true := fun hc =>
    h ⟨o₁, o₂, rfl, Bool.and_eq_true_iff.1 hc⟩
  exact if_neg hfree

/-- A request is refused as a re-entry, and for no other reason: apart from it a request performs operations, and none of
them is refused in any state. -/
theorem serve_eq_refused_iff {r : Request} {s : State} {e : Refusal} :
    serve r s = .refused e ↔ e = .reentrant ∧ r.reentrant := by
  constructor
  · intro h
    by_cases hr : r.reentrant
    · rw [serve_reentrant hr s] at h
      cases h
      exact ⟨rfl, hr⟩
    · exfalso
      cases r with
      | one o => exact perform_ne_refused o s e h
      | overlapping o₁ o₂ =>
        rw [serve_overlapping hr s, andThen_eq_refused_iff] at h
        obtain h₁ | ⟨t, -, h₂⟩ := h
        · exact perform_ne_refused o₁ s e h₁
        · exact perform_ne_refused o₂ t e h₂
  · rintro ⟨rfl, hr⟩
    exact serve_reentrant hr s

/-- Settles O46: the step serves the oldest request, and with no request left it refuses nothing. -/
theorem onlyReentryIsRefused : Obligations.OnlyReentryIsRefused := by
  intro s e
  cases hq : s.stim with
  | nil => simp [step_nil hq]
  | cons r rest =>
    rw [step_cons hq, serve_eq_refused_iff]
    simp [Request.reentrant]

/-! ### The block that waits (R178, R204) -/

/-- Settles O47: an open message or frame is left on any status byte, accepted by the filter or not. -/
theorem parkedBlockWaitsForAStatusByte : Obligations.ParkedBlockWaitsForAStatusByte := by
  refine fun s => ⟨step_nil, fun b i hb hi => ?_⟩
  obtain rfl := decode_single hi
  obtain ⟨t, ht, -, ⟨-, -, habort⟩, -, -, hclose, -⟩ := feed_status_result s hb
  exact ⟨t, (exec_decodeByte b s).trans ht, fun hp => (habort hp).1, fun hx => (hclose hx).1⟩

/-! ### No step faults (R170) -/

/-- From a state that meets the invariant a request is served, unless it is refused as a re-entry: the first of two
operations keeps the invariant, so the second completes too. -/
theorem serve_answers {r : Request} {s : State} (hs : s.Inv) (hr : ¬ r.reentrant) : ∃ t, serve r s = .next t := by
  have hperform (o : Operation) {u : State} (hu : u.Inv) : ∃ v, perform o u = .next v := by
    obtain ⟨-, hx, -⟩ := hu
    exact everyOperationCompletes o u hx
  cases r with
  | one o => exact hperform o hs
  | overlapping o₁ o₂ =>
    obtain ⟨u, hu⟩ := hperform o₁ hs
    obtain ⟨t, ht⟩ := hperform o₂ (perform_keeps_inv hs hu)
    exact ⟨t, by rw [serve_overlapping hr s, hu, andThen_next, ht]⟩

/-- Settles O49: a request is refused or served, and with no request left the step keeps the state. -/
theorem noStepFaults : Obligations.NoStepFaults := by
  intro s e hs h
  cases hq : s.stim with
  | nil => cases (step_nil hq).symm.trans h
  | cons r rest =>
    rw [step_cons hq] at h
    by_cases hr : r.reentrant
    · cases (serve_reentrant hr _).symm.trans h
    · obtain ⟨t, ht⟩ := serve_answers (s := s.setStim rest) hs hr
      cases ht.symm.trans h

end Sys2Proof.Machine

/-! PROOFS. The statements of 70_reset_and_hazards.md: what RESET restarts, and data bytes with nothing open. -/

namespace Sys2Proof.Machine

/-! ### RESET (R190, D13) -/

/-- The two machines are in their first states, with nothing in progress. -/
theorem performReset_machines (s : State) :
    (performReset s).pstate = .status ∧ (performReset s).xstate = .idle ∧ (performReset s).xbuf = [] := ⟨rfl, rfl, rfl⟩

/-- Nothing is registered any more: no filter and no consumer (R147). -/
theorem performReset_registrations (s : State) :
    (performReset s).filt = none ∧ (performReset s).msgCb = none ∧ (performReset s).sxCb = none := ⟨rfl, rfl, rfl⟩

/-- The events emitted so far are forgotten (R23). -/
theorem performReset_out (s : State) : (performReset s).out = [] := rfl

/-- Settles O9: RESET answers `performReset`, in every state; its registers and its frame are the facts above. -/
theorem resetOperationRestartsTheBlock : Obligations.ResetOperationRestartsTheBlock := by
  intro s
  obtain ⟨hpstate, hxstate, hxbuf⟩ := performReset_machines s
  obtain ⟨hfilt, hmsgCb, hsxCb⟩ := performReset_registrations s
  obtain ⟨hcapacity, hstim⟩ := performReset_frame s
  exact ⟨performReset s, rfl, hpstate, hxstate, hxbuf, hfilt, hmsgCb, hsxCb, performReset_out s, hcapacity, hstim⟩

/-! ### No running status (R193, R202) -/

/-- Settles O25, by the induction on the bytes that a frame's ignored tail rests on too: in STATUS the core parser ignores
a data byte, and in IDLE the accumulator does, so the same holds again for the bytes that are left. -/
theorem dataBytesAloneChangeNothing : Obligations.DataBytesAloneChangeNothing := fun _ _ hp hx hd =>
  steps_feeds_data_of_idle hp hx hd

end Sys2Proof.Machine
